-- ==== Sys2Proof/Word.lean ====
section
/-!
DEFINITION. The words of the machine (spec 00_scope.md R7, R10 to R12).
All quantities are unsigned; the core has no signed operation (R10).
-/

namespace Sys2Proof

/-- A 4-bit field of the instruction word: a register index or a sprite's row count (30_encoding.md R72). -/
abbrev Nibble := BitVec 4

/-- A byte of memory, a general register, a timer, an immediate `kk` (00_scope.md R7). -/
abbrev Byte := BitVec 8

/-- A 12-bit address `nnn` of an instruction word (30_encoding.md R72). -/
abbrev Addr := BitVec 12

/-- 16 bits: the instruction word, `pc`, `I`, a stack slot (00_scope.md R7). -/
abbrev Word := BitVec 16

end Sys2Proof
end

