-- ==== Sys2Proof/Decode.lean ====
section
/-!
DEFINITION. The instruction word: its fields, the dispatcher (30_encoding.md R83), the encoder
(R73, R75), and the mask and match table (R75).
-/

namespace Sys2Proof

/-! ### Fields of the word (30_encoding.md R72) -/

/-- `w[15:12]`, the group. -/
def fieldOp (w : Word) : Nibble := w.extractLsb' 12 4

/-- `w[11:8]`, the first register index. -/
def fieldX (w : Word) : Nibble := w.extractLsb' 8 4

/-- `w[7:4]`, the second register index. -/
def fieldY (w : Word) : Nibble := w.extractLsb' 4 4

/-- `w[3:0]`, the count or function code. -/
def fieldN (w : Word) : Nibble := w.extractLsb' 0 4

/-- `w[7:0]`, the immediate or function byte. -/
def fieldKk (w : Word) : Byte := w.extractLsb' 0 8

/-- `w[11:0]`, the address. -/
def fieldNnn (w : Word) : Addr := w.extractLsb' 0 12

/-- Two bytes as the word they form, the first one high (20_memory.md R51). -/
def wordOfBytes (hi lo : Byte) : Word := hi ++ lo

/-- The byte of a word that is fetched first (20_memory.md R51). -/
def highByte (w : Word) : Byte := w.extractLsb' 8 8

/-- The byte of a word that is fetched second (20_memory.md R51). -/
def lowByte (w : Word) : Byte := w.extractLsb' 0 8

/-! ### The dispatcher -/

/-- Why bytes are not an instruction. -/
inductive Reject where
  /-- The word is outside the opcode table (30_encoding.md R78): the core raises
  UnsupportedOpcode for it. -/
  | unknownOpcode (w : Word)
  /-- Fewer than the two bytes of an instruction word (R70): only a list of bytes can be too
  short, the core's fetch never is. -/
  | truncated
deriving DecidableEq, Repr

/-- Group 8: the function code selects the operation (30_encoding.md R76, R83). -/
def decodeGroup8 (w : Word) : Except Reject Instr :=
  match fieldN w with
  | 0x0 => .ok (.ldReg (fieldX w) (fieldY w))
  | 0x1 => .ok (.orReg (fieldX w) (fieldY w))
  | 0x2 => .ok (.andReg (fieldX w) (fieldY w))
  | 0x3 => .ok (.xorReg (fieldX w) (fieldY w))
  | 0x4 => .ok (.addReg (fieldX w) (fieldY w))
  | 0x5 => .ok (.subReg (fieldX w) (fieldY w))
  | 0x6 => .ok (.shr (fieldX w) (fieldY w))
  | _ => .error (.unknownOpcode w)

/-- Group E: the function byte selects the key test (30_encoding.md R76, R83). -/
def decodeGroupE (w : Word) : Except Reject Instr :=
  match fieldKk w with
  | 0x9E => .ok (.skp (fieldX w))
  | 0xA1 => .ok (.sknp (fieldX w))
  | _ => .error (.unknownOpcode w)

/-- Group F: the function byte selects the operation (30_encoding.md R76, R83). -/
def decodeGroupF (w : Word) : Except Reject Instr :=
  match fieldKk w with
  | 0x07 => .ok (.ldVxDt (fieldX w))
  | 0x0A => .ok (.ldVxK (fieldX w))
  | 0x15 => .ok (.ldDtVx (fieldX w))
  | 0x1E => .ok (.addI (fieldX w))
  | 0x29 => .ok (.ldF (fieldX w))
  | 0x33 => .ok (.ldB (fieldX w))
  | 0x55 => .ok (.stRegs (fieldX w))
  | 0x65 => .ok (.ldRegs (fieldX w))
  | _ => .error (.unknownOpcode w)

/-- The dispatcher of 30_encoding.md R83, total on all 65536 words. A literal digit of a
pattern must match (R77). -/
def decode (w : Word) : Except Reject Instr :=
  if w = 0x00E0 then .ok .cls
  else if w = 0x00EE then .ok .ret
  else match fieldOp w with
    | 0x1 => .ok (.jp (fieldNnn w))
    | 0x2 => .ok (.call (fieldNnn w))
    | 0x3 => .ok (.seImm (fieldX w) (fieldKk w))
    | 0x4 => .ok (.sneImm (fieldX w) (fieldKk w))
    | 0x5 => if fieldN w = 0 then .ok (.seReg (fieldX w) (fieldY w)) else .error (.unknownOpcode w)
    | 0x6 => .ok (.ldImm (fieldX w) (fieldKk w))
    | 0x7 => .ok (.addImm (fieldX w) (fieldKk w))
    | 0x8 => decodeGroup8 w
    | 0x9 => if fieldN w = 0 then .ok (.sneReg (fieldX w) (fieldY w)) else .error (.unknownOpcode w)
    | 0xA => .ok (.ldI (fieldNnn w))
    | 0xC => .ok (.rnd (fieldX w) (fieldKk w))
    | 0xD => .ok (.drw (fieldX w) (fieldY w) (fieldN w))
    | 0xE => decodeGroupE w
    | 0xF => decodeGroupF w
    | _ => .error (.unknownOpcode w)

/-- The instruction at the head of any list of bytes, and the bytes after it: every
instruction is two bytes (30_encoding.md R70). -/
def decodeBytes : List Byte → Except Reject (Instr × List Byte)
  | hi :: lo :: rest =>
    match decode (wordOfBytes hi lo) with
    | .ok i => .ok (i, rest)
    | .error r => .error r
  | _ => .error .truncated

/-- The two bytes that hold an instruction word given as a number, in memory order, every bit
from `nbits` upward taken as zero. -/
def tableBytes (nbits w : Nat) : List Byte :=
  let word : Word := BitVec.ofNat 16 (w % 2 ^ nbits)
  [highByte word, lowByte word]

/-- The host's question: what the decoder reads from a word numbered as spec/opcode_table.json
numbers it (one 16-bit word, bit 0 its least significant bit). -/
def decodeTableWord (nbits w : Nat) : Option Instr :=
  match decodeBytes (tableBytes nbits w) with
  | .ok (i, _) => some i
  | .error _ => none

/-! ### The encoder -/

/-- Format A: group, address (30_encoding.md R73). -/
def formatA (op : Nibble) (nnn : Addr) : Word := op ++ nnn

/-- Format I: group, register, immediate (R73). -/
def formatI (op x : Nibble) (kk : Byte) : Word := op ++ x ++ kk

/-- Formats R and D: group, register, register, function code or count (R73). -/
def formatR (op x y n : Nibble) : Word := op ++ x ++ y ++ n

/-- Format X: group, register, function byte (R73). -/
def formatX (op x : Nibble) (fn : Byte) : Word := op ++ x ++ fn

/-- The word of an instruction, from the patterns of 30_encoding.md R75. -/
def encode : Instr → Word
  | .cls => 0x00E0
  | .ret => 0x00EE
  | .jp nnn => formatA 0x1 nnn
  | .call nnn => formatA 0x2 nnn
  | .seImm x kk => formatI 0x3 x kk
  | .sneImm x kk => formatI 0x4 x kk
  | .seReg x y => formatR 0x5 x y 0x0
  | .ldImm x kk => formatI 0x6 x kk
  | .addImm x kk => formatI 0x7 x kk
  | .ldReg x y => formatR 0x8 x y 0x0
  | .orReg x y => formatR 0x8 x y 0x1
  | .andReg x y => formatR 0x8 x y 0x2
  | .xorReg x y => formatR 0x8 x y 0x3
  | .addReg x y => formatR 0x8 x y 0x4
  | .subReg x y => formatR 0x8 x y 0x5
  | .shr x y => formatR 0x8 x y 0x6
  | .sneReg x y => formatR 0x9 x y 0x0
  | .ldI nnn => formatA 0xA nnn
  | .rnd x kk => formatI 0xC x kk
  | .drw x y n => formatR 0xD x y n
  | .skp x => formatX 0xE x 0x9E
  | .sknp x => formatX 0xE x 0xA1
  | .ldVxDt x => formatX 0xF x 0x07
  | .ldVxK x => formatX 0xF x 0x0A
  | .ldDtVx x => formatX 0xF x 0x15
  | .addI x => formatX 0xF x 0x1E
  | .ldF x => formatX 0xF x 0x29
  | .ldB x => formatX 0xF x 0x33
  | .stRegs x => formatX 0xF x 0x55
  | .ldRegs x => formatX 0xF x 0x65

/-! ### The opcode map as masks (30_encoding.md R75) -/

/-- One row of the map: word `w` is the instruction exactly when `w & mask = pattern`. -/
structure OpcodeRow where
  mask : Word
  pattern : Word
deriving DecidableEq, Repr

/-- The row of an instruction (the `mask` and `match` columns of 30_encoding.md R75). -/
def Instr.row : Instr → OpcodeRow
  | .cls => ⟨0xFFFF, 0x00E0⟩
  | .ret => ⟨0xFFFF, 0x00EE⟩
  | .jp _ => ⟨0xF000, 0x1000⟩
  | .call _ => ⟨0xF000, 0x2000⟩
  | .seImm _ _ => ⟨0xF000, 0x3000⟩
  | .sneImm _ _ => ⟨0xF000, 0x4000⟩
  | .seReg _ _ => ⟨0xF00F, 0x5000⟩
  | .ldImm _ _ => ⟨0xF000, 0x6000⟩
  | .addImm _ _ => ⟨0xF000, 0x7000⟩
  | .ldReg _ _ => ⟨0xF00F, 0x8000⟩
  | .orReg _ _ => ⟨0xF00F, 0x8001⟩
  | .andReg _ _ => ⟨0xF00F, 0x8002⟩
  | .xorReg _ _ => ⟨0xF00F, 0x8003⟩
  | .addReg _ _ => ⟨0xF00F, 0x8004⟩
  | .subReg _ _ => ⟨0xF00F, 0x8005⟩
  | .shr _ _ => ⟨0xF00F, 0x8006⟩
  | .sneReg _ _ => ⟨0xF00F, 0x9000⟩
  | .ldI _ => ⟨0xF000, 0xA000⟩
  | .rnd _ _ => ⟨0xF000, 0xC000⟩
  | .drw _ _ _ => ⟨0xF000, 0xD000⟩
  | .skp _ => ⟨0xF0FF, 0xE09E⟩
  | .sknp _ => ⟨0xF0FF, 0xE0A1⟩
  | .ldVxDt _ => ⟨0xF0FF, 0xF007⟩
  | .ldVxK _ => ⟨0xF0FF, 0xF00A⟩
  | .ldDtVx _ => ⟨0xF0FF, 0xF015⟩
  | .addI _ => ⟨0xF0FF, 0xF01E⟩
  | .ldF _ => ⟨0xF0FF, 0xF029⟩
  | .ldB _ => ⟨0xF0FF, 0xF033⟩
  | .stRegs _ => ⟨0xF0FF, 0xF055⟩
  | .ldRegs _ => ⟨0xF0FF, 0xF065⟩

/-- The whole map, one row per instruction, in the table's order (30_encoding.md R75): the row
depends on the constructor only, so each stands for its row with its operands at zero. -/
def opcodeMap : List OpcodeRow :=
  [Instr.cls, .ret, .jp 0, .call 0, .seImm 0 0, .sneImm 0 0, .seReg 0 0, .ldImm 0 0,
    .addImm 0 0, .ldReg 0 0].map Instr.row
  ++ [Instr.orReg 0 0, .andReg 0 0, .xorReg 0 0, .addReg 0 0, .subReg 0 0, .shr 0 0,
    .sneReg 0 0, .ldI 0, .rnd 0 0, .drw 0 0 0].map Instr.row
  ++ [Instr.skp 0, .sknp 0, .ldVxDt 0, .ldVxK 0, .ldDtVx 0, .addI 0, .ldF 0, .ldB 0,
    .stRegs 0, .ldRegs 0].map Instr.row

/-- The word matches the row. -/
def OpcodeRow.holds (r : OpcodeRow) (w : Word) : Bool := w &&& r.mask == r.pattern

end Sys2Proof
end

