-- ==== Sys2Proof/Config.lean ====
section
/-!
DEFINITION. What an implementation fixes (00_scope.md R9) and the one free value of the model.
The DEFAULT values of the parameters are in Sys2Proof/Machine/Defaults.lean.
-/

namespace Sys2Proof

/-- The parameters of the core (00_scope.md R9). No instruction depends on either: they
enter at power-on and at reset (10_state.md R45). -/
structure Config where
  /-- `START_ADDR`, where the program is loaded and where `pc` starts (R9, decision D2). -/
  startAddr : Word
  /-- `FONT`, the bytes of addresses 0x000 to 0x04F at power-on (R9, decision D3). -/
  font : List Byte
deriving DecidableEq, Repr

/-- The byte that the environment puts on the `rnd` port at the n-th free draw: a free value
(42_register_alu.md R123: `rnd` is "a free input under no law, a fresh one for every Cxkk").
It has no body, so nothing can be proved of its values. Log entry 4. -/
opaque Config.rndByte : Nat → Byte

end Sys2Proof
end

