-- ==== Sys2Proof/WellFormed.lean ====
section
/-!
DEFINITION. Which terms are well formed: instructions, configurations, program images.
-/

namespace Sys2Proof

/-- Every operand of an instruction has exactly the width of its field of the word
(30_encoding.md R72, R74), and every value of every field is legal: R21 ("no instruction can
name a register that does not exist"), R141 (`n` is 0 to 15), R130 ("any 12-bit value is
legal"). So no term of `Instr` is ill formed; the match names each constructor so that a new
one must be judged here. -/
def Instr.wf : Instr → Bool
  | .cls => true
  | .ret => true
  | .jp _ => true
  | .call _ => true
  | .seImm _ _ => true
  | .sneImm _ _ => true
  | .seReg _ _ => true
  | .ldImm _ _ => true
  | .addImm _ _ => true
  | .ldReg _ _ => true
  | .orReg _ _ => true
  | .andReg _ _ => true
  | .xorReg _ _ => true
  | .addReg _ _ => true
  | .subReg _ _ => true
  | .shr _ _ => true
  | .sneReg _ _ => true
  | .ldI _ => true
  | .rnd _ _ => true
  | .drw _ _ _ => true
  | .skp _ => true
  | .sknp _ => true
  | .ldVxDt _ => true
  | .ldVxK _ => true
  | .ldDtVx _ => true
  | .addI _ => true
  | .ldF _ => true
  | .ldB _ => true
  | .stRegs _ => true
  | .ldRegs _ => true

/-- Legal values of the parameters (00_scope.md R9, decisions D2 and D3): the start address is
even and in 0x050 to 0xFFE, the font has 80 bytes. -/
def Config.wf (c : Config) : Bool :=
  c.startAddr.toNat % 2 == 0 && decide (0x050 ≤ c.startAddr.toNat)
    && decide (c.startAddr.toNat ≤ 0xFFE) && c.font.length == 80

/-- A program image fits: at most `4096 - START_ADDR` bytes (10_state.md R39,
70_reset_and_hazards.md R197). -/
def Config.fits (c : Config) (image : List Byte) : Bool :=
  decide (c.startAddr.toNat + image.length ≤ 0x1000)

end Sys2Proof
end

