-- ==== Sys2Proof/Machine/State.lean ====
section
/-!
DEFINITION. The state of the core: everything spec/10_state.md gives it, the two input ports of
00_scope.md R8, and three fields of the model's own (`inputs`, `draws`, `ticked`).
-/

namespace Sys2Proof.Machine

/-- Main memory, 4096 bytes (10_state.md R36): the cells that differ from what memory holds at
power-on (`Memory.unlisted` of Ops.lean), addresses strictly rising. -/
abbrev Memory := List Host.Cell

/-- The display, 32 rows of 64 pixels (10_state.md R40): pixel `(cx, cy)` is bit `cx` of row `cy`.
The output port's one vector of 2048 bits is `Display.port` of Ops.lean. -/
abbrev Display := Vector (BitVec 64) 32

/-- The five fault causes (60_exceptions.md R160). -/
inductive FaultCode where
  /-- Code 1: the word is outside the opcode table (R161). -/
  | unsupportedOpcode
  /-- Code 2: `CALL` with a full stack (R162). -/
  | stackOverflow
  /-- Code 3: `RET` with an empty stack (R163). -/
  | stackUnderflow
  /-- Code 4: a fetch outside memory (R164). -/
  | fetchOutOfRange
  /-- Code 5: a key test with a register above 15 (R165). -/
  | keyIndexOutOfRange
deriving DecidableEq, Repr

/-- What a fault latches: its cause, the address of the failing instruction, its word
(60_exceptions.md R169). -/
structure FaultRecord where
  code : FaultCode
  addr : Word
  word : Word
deriving DecidableEq, Repr

/-- What the host puts on the input ports for one tick: the key levels and the random byte
(40_tick_cycle.md R97: "Inputs: the state, `keys` (16 bits), `rnd` (8 bits)"). -/
structure TickInput where
  keys : BitVec 16
  rnd : Byte
deriving DecidableEq, Repr

/-- The state of the core between two ticks, with the values its input ports hold for the tick
to come. -/
structure State where
  /-- `V[0]` to `V[15]` (10_state.md R20). -/
  v : Vector Byte 16
  /-- The program counter (R23). -/
  pc : Word
  /-- The address pointer I (R28, R29). -/
  i : Word
  /-- The stack pointer, the next free slot, 0 to 16 (R31). -/
  sp : Fin 17
  /-- The stack's 16 slots (R30). -/
  stack : Vector Word 16
  /-- The delay timer (R32). -/
  dt : Byte
  /-- The sound timer (R33). -/
  st : Byte
  /-- Main memory (R36). -/
  mem : Memory
  /-- The display (R40). -/
  disp : Display
  /-- The fault latch (R34). -/
  flt : Option FaultRecord
  /-- The report of the last tick: it executed `CLS` or `DRW` (40_tick_cycle.md R95). -/
  dirty : Bool
  /-- The input port `keys`, bit k is 1 while key k is pressed (00_scope.md R8, 10_state.md R42). -/
  keys : BitVec 16
  /-- The input port `rnd`, the byte the environment supplies for this tick (00_scope.md R8). -/
  rnd : Byte
  /-- The model's own: what the host will put on the ports for the ticks after this one, the
  next one first. Log entry 5. -/
  inputs : List TickInput
  /-- The model's own: how many bytes of the free value `Config.rndByte` have been taken. Log entry 4. -/
  draws : Nat
  /-- The model's own: a tick has been issued since power-on or the last reset
  (70_reset_and_hazards.md R197). Log entry 6. -/
  ticked : Bool
deriving DecidableEq, Repr

/-- A host operation fails with an error that the source names (60_exceptions.md R166). No
instruction and no tick raises one: the five faults of the core are latched in `State.flt` and
are NEXT states (R169 to R171). -/
inductive Fault where
  /-- Raised by the host operation `load` (Machine/HostOps.lean) when the bytes pass 0x1000
  (R166: "reject the load, machine state unchanged"). Safe: the spec names the error. -/
  | romTooLarge
  /-- Raised by the host operation `setKey` when the index is 16 or more (R166). Safe: the spec
  names the error. -/
  | invalidKeyIndex
deriving DecidableEq, Repr

/-- No meaning is given. No instruction that has a meaning and no tick answers one. -/
inductive Refusal where
  /-- Answered by an arm of `exec` whose instruction has no meaning yet. Safe: nothing is claimed
  of the instruction. -/
  | notModelled (mnemonic : String)
  /-- Answered by the host operation `load` after the first tick of a run
  (70_reset_and_hazards.md R197, decision D30: "not modelled"). Safe. -/
  | loadDuringRun
  /-- Answered by the host operation that would clear the fault latch without a reset
  (60_exceptions.md R171: "a model should refuse it"). Safe. -/
  | resumeAfterFault
  /-- Answered by a host operation under a configuration outside the legal range (00_scope.md R9,
  decision D2: "configurations outside the range are refused"). Safe. -/
  | illegalConfig
deriving DecidableEq, Repr

/-- The machine right after power-on with the default configuration (10_state.md R45,
70_reset_and_hazards.md R190): memory as it stands at power-on, nothing loaded. `rnd` holds the
first free byte (log entry 4). -/
def State.reset : State where
  v := Vector.replicate 16 0
  pc := defaultConfig.startAddr
  i := 0
  sp := 0
  stack := Vector.replicate 16 0
  dt := 0
  st := 0
  mem := []
  disp := Vector.replicate 32 0
  flt := none
  dirty := false
  keys := 0
  rnd := Config.rndByte 0
  inputs := []
  draws := 1
  ticked := false

end Sys2Proof.Machine
end

