-- ==== Sys2Proof/Machine/Ops.lean ====
section
/-!
DEFINITION. The named operations over memory, registers, the stack and the display, and taking
a fault. Every meaning is written over these.
-/

namespace Sys2Proof.Machine

/-- What one instruction, or one tick, answers. -/
abbrev Result := Host.Outcome State Fault Refusal

/-- Change the next state, where there is one. -/
def onNext (f : State → State) : Result → Result
  | .next s => .next (f s)
  | .fault r => .fault r
  | .refused r => .refused r

/-! ### Memory (20_memory.md R50, R57) -/

/-- What an address not listed holds: the power-on content, the font table below 0x050 and zero
from there on (10_state.md R37, R39, R45). -/
def Memory.unlisted (a : Nat) : Byte := defaultFont.getD a 0

/-- `MemRead(a, 1)` (00_scope.md R14). -/
def Memory.read : Memory → Nat → Byte
  | [], a => Memory.unlisted a
  | (b, u) :: m, a => if a = b then u else Memory.read m a

/-- Put a cell at its place in the list. -/
def Memory.insert : Memory → Nat → Byte → Memory
  | [], a, u => [(a, u)]
  | (b, w) :: m, a, u =>
    if a < b then (a, u) :: (b, w) :: m
    else if a = b then (a, u) :: m
    else (b, w) :: Memory.insert m a u

/-- Take the cell of an address out of the list. -/
def Memory.erase (m : Memory) (a : Nat) : Memory := m.filter fun c => decide (c.1 ≠ a)

/-- `MemWrite(a, 1, u)` (00_scope.md R14): no cell is listed whose byte is the unlisted one. -/
def Memory.write (m : Memory) (a : Nat) (u : Byte) : Memory :=
  if u = Memory.unlisted a then Memory.erase m a else Memory.insert m a u

/-- The canonical form: addresses strictly rising and below 0x1000, no cell that holds what an
unlisted address reads as. -/
def Memory.wf : Memory → Bool
  | [] => true
  | (a, u) :: m =>
    decide (a < 0x1000) && decide (u ≠ Memory.unlisted a)
      && m.all (fun c => decide (a < c.1)) && Memory.wf m

/-- Store bytes one after the other from address `a` upward. -/
def Memory.writeBytes (m : Memory) (a : Nat) : List Byte → Memory
  | [] => m
  | u :: us => Memory.writeBytes (Memory.write m a u) (a + 1) us

/-! ### General registers (10_state.md R20, R21) -/

/-- `V[x]`. -/
def State.reg (s : State) (x : Nibble) : Byte := s.v[x.toNat]'(x.isLt)

/-- `V[x] <- u`. -/
def State.setReg (s : State) (x : Nibble) (u : Byte) : State :=
  { s with v := s.v.set x.toNat u x.isLt }

/-- The index of VF, the flag register (10_state.md R22). -/
def VF : Nibble := 0xF

/-! ### The other registers -/

/-- `pc <- target`. -/
def State.setPc (s : State) (target : Word) : State := { s with pc := target }

/-- `I <- a`. -/
def State.setI (s : State) (a : Word) : State := { s with i := a }

/-- `dt <- u`. -/
def State.setDt (s : State) (u : Byte) : State := { s with dt := u }

/-- Memory after an instruction's stores. -/
def State.setMem (s : State) (m : Memory) : State := { s with mem := m }

/-- The address the instruction was fetched from. While an instruction executes, `pc` has been
advanced by 2 (10_state.md R23, 40_tick_cycle.md R91). -/
def State.pc0 (s : State) : Word := s.pc - 2

/-- Pass over one more instruction word when the condition holds, 2 bytes modulo 65536
(41_control_flow.md R100, R104). -/
def State.skipIf (s : State) (cond : Bool) : State :=
  if cond then s.setPc (s.pc + 2) else s

/-! ### The stack controller (41_control_flow.md R101, R103) -/

/-- `stack[sp] <- u; sp <- sp + 1`, for a stack that is not full. -/
def State.push (s : State) (u : Word) (room : s.sp.val < 16) : State :=
  { s with stack := s.stack.set s.sp.val u, sp := ⟨s.sp.val + 1, by omega⟩ }

/-- `stack[sp - 1]`, the top of a stack that is not empty. -/
def State.top (s : State) (live : 0 < s.sp.val) : Word :=
  s.stack[s.sp.val - 1]'(by have := s.sp.isLt; omega)

/-- `sp <- sp - 1`: the slot keeps its content (R101). -/
def State.pop (s : State) : State :=
  { s with sp := ⟨s.sp.val - 1, by have := s.sp.isLt; omega⟩ }

/-! ### The display (44_display.md R141 to R147) -/

/-- The 64 pixels of a row; there is nothing below row 31. -/
def Display.row (d : Display) (cy : Nat) : BitVec 64 :=
  if h : cy < 32 then d[cy] else 0

/-- `disp[cx, cy]`. -/
def Display.pixel (d : Display) (cx cy : Nat) : Bool := (d.row cy).getLsbD cx

/-- `disp[cx, cy] <- disp[cx, cy] ^ 1`. -/
def Display.flip (d : Display) (cx cy : Nat) : Display :=
  d.setIfInBounds cy (d.row cy ^^^ BitVec.twoPow 64 cx)

/-- The display with every pixel off. -/
def Display.blank : Display := Vector.replicate 32 0

/-- The first `n` rows as one vector, row 0 in the lowest bits. -/
def Display.portRows (d : Display) : Nat → BitVec 2048
  | 0 => 0
  | n + 1 => Display.portRows d n ||| ((d.row n).setWidth 2048 <<< (n * 64))

/-- The output port `disp`: row-major, pixel `(cx, cy)` is bit `cy * 64 + cx` (R147, 10_state.md
R41). No instruction reads it. -/
def Display.port (d : Display) : BitVec 2048 := d.portRows 32

/-- The display and the collision seen so far, while a sprite is drawn. -/
structure Drawing where
  disp : Display
  coll : Bool
deriving DecidableEq, Repr

/-- One pixel of a sprite bit that is 1: note a collision, then exclusive-or (R141, R143). -/
def Drawing.plot (g : Drawing) (cx cy : Nat) : Drawing :=
  { disp := g.disp.flip cx cy, coll := g.coll || g.disp.pixel cx cy }

/-- The first `c` columns of a sprite row whose byte is `b`, from column `x0` in display row
`cy`: bit 7 is column 0 (R144), each column wraps modulo 64 (R142). -/
def Drawing.columns (b : Byte) (x0 cy : Nat) : Nat → Drawing → Drawing
  | 0, g => g
  | c + 1, g =>
    let g' := Drawing.columns b x0 cy c g
    if b.getLsbD (7 - c) then g'.plot ((x0 + c) % 64) cy else g'

/-- The first `r` rows of a sprite whose byte for row `k` is `rowByte k`, from `(x0, y0)`: each
row wraps modulo 32 (R141, R142). -/
def Drawing.rows (rowByte : Nat → Byte) (x0 y0 : Nat) : Nat → Drawing → Drawing
  | 0, g => g
  | r + 1, g =>
    Drawing.columns (rowByte r) x0 ((y0 + r) % 32) 8 (Drawing.rows rowByte x0 y0 r g)

/-- The new display, marked dirty (R140, R141; 40_tick_cycle.md R95). -/
def State.setDisp (s : State) (d : Display) : State := { s with disp := d, dirty := true }

/-! ### Taking a fault (60_exceptions.md R169, R170) -/

/-- The numeric code on the output port `fault` (60_exceptions.md R160). -/
def FaultCode.number : FaultCode → Nat
  | .unsupportedOpcode => 1
  | .stackOverflow => 2
  | .stackUnderflow => 3
  | .fetchOutOfRange => 4
  | .keyIndexOutOfRange => 5

/-- The core latches `(code, addr, word)` and reports `dirty = 0`; nothing else changes, and
control goes nowhere. There is no return from a fault (R173): only power-on and reset clear the
latch (Machine/HostOps.lean). -/
def State.takeFault (s : State) (code : FaultCode) (addr word : Word) : State :=
  { s with flt := some ⟨code, addr, word⟩, dirty := false }

/-- A fault of step 3: the record names the address the failing instruction was fetched from and
its word; `pc` stays advanced (R170, R172). -/
def State.raise (s : State) (code : FaultCode) (i : Instr) : State :=
  s.takeFault code s.pc0 (encode i)

end Sys2Proof.Machine
end

