-- ==== Sys2Proof/Machine/Operands.lean ====
section
/-!
DEFINITION. The operand forms (30_encoding.md R74, 43_index_memory.md R136, 45_keypad_timer.md
R158) and the values computed from them. Registers are read by `State.reg`; `kk` and `n` are
used as they stand.
-/

namespace Sys2Proof.Machine

/-- `zext_16(nnn)` (R74). -/
def zext16 (nnn : Addr) : Word := nnn.zeroExtend 16

/-- `EA(k) = (I + k) mod 4096`, the one addressing mode (20_memory.md R56, 43_index_memory.md
R136). -/
def ea (i : Word) (k : Nat) : Nat := (i.toNat + k) % 4096

/-- `(I + d) mod 4096` as the new value of I (10_state.md R29). -/
def advanceI (i : Word) (d : Nat) : Word := BitVec.ofNat 16 ((i.toNat + d) % 4096)

/-- The address of glyph `u`, `u * 5` with no masking of `u` (43_index_memory.md R132). -/
def glyphAddr (u : Byte) : Word := BitVec.ofNat 16 (u.toNat * 5)

/-- Decimal digit `k` of a byte: hundreds, tens, units (43_index_memory.md R133). -/
def bcdDigit (u : Byte) : Nat → Byte
  | 0 => BitVec.ofNat 8 (u.toNat / 100)
  | 1 => BitVec.ofNat 8 (u.toNat / 10 % 10)
  | _ => BitVec.ofNat 8 (u.toNat % 10)

/-- The level of the key a register names (45_keypad_timer.md R158): `keys[k]`. -/
def keyPressed (keys : BitVec 16) (k : Byte) : Bool := keys.getLsbD k.toNat

/-- The first of `n` key numbers from `k` upward whose key is pressed. -/
def firstKey (keys : BitVec 16) : Nat → Nat → Nat
  | 0, k => k
  | n + 1, k => if keys.getLsbD k then k else firstKey keys n (k + 1)

/-- `KEY_SELECT(keys)`, the lowest `k` in 0 to 15 with `keys[k] = 1` (45_keypad_timer.md R153,
decision D16; log entry 13). -/
def keySelect (keys : BitVec 16) : Byte := BitVec.ofNat 8 (firstKey keys 16 0)

/-- Memory after `V[0]` to `V[count - 1]` are stored at `EA(0)` upward (43_index_memory.md R134). -/
def storeRegisters (s : State) : Nat → Memory
  | 0 => s.mem
  | k + 1 => (storeRegisters s k).write (ea s.i k) (s.reg (BitVec.ofNat 4 k))

/-- The state after `V[0]` to `V[count - 1]` are loaded from `EA(0)` upward; all addresses come
from the I of the start (43_index_memory.md R135). -/
def loadRegisters (s : State) : Nat → State
  | 0 => s
  | k + 1 => (loadRegisters s k).setReg (BitVec.ofNat 4 k) (s.mem.read (ea s.i k))

end Sys2Proof.Machine
end

