-- ==== Sys2Proof/Machine/ControlFlow.lean ====
section
/-!
DEFINITION. Control flow and the stack controller (spec 41_control_flow.md). `pc` already holds
the address of the next word when a meaning runs (R100).
-/

namespace Sys2Proof.Machine

/-- `RET` (41_control_flow.md R101): StackUnderflow on an empty stack, else the popped slot goes
to `pc`. -/
def execRet (s : State) : Result :=
  if live : 0 < s.sp.val then .next (s.pop.setPc (s.top live))
  else .next (s.raise .stackUnderflow .ret)

/-- `JP nnn` (41_control_flow.md R102). -/
def execJp (nnn : Addr) (s : State) : Result := .next (s.setPc (zext16 nnn))

/-- `CALL nnn` (41_control_flow.md R103): StackOverflow on a full stack, else the advanced `pc`
is pushed. -/
def execCall (nnn : Addr) (s : State) : Result :=
  if room : s.sp.val < 16 then .next ((s.push s.pc room).setPc (zext16 nnn))
  else .next (s.raise .stackOverflow (.call nnn))

/-- `SE Vx, kk` (41_control_flow.md R104). -/
def execSeImm (x : Nibble) (kk : Byte) (s : State) : Result := .next (s.skipIf (s.reg x == kk))

/-- `SNE Vx, kk` (41_control_flow.md R105). -/
def execSneImm (x : Nibble) (kk : Byte) (s : State) : Result := .next (s.skipIf (s.reg x != kk))

/-- `SE Vx, Vy` (41_control_flow.md R106). -/
def execSeReg (x y : Nibble) (s : State) : Result := .next (s.skipIf (s.reg x == s.reg y))

/-- `SNE Vx, Vy` (41_control_flow.md R107). -/
def execSneReg (x y : Nibble) (s : State) : Result := .next (s.skipIf (s.reg x != s.reg y))

end Sys2Proof.Machine
end

