-- ==== Sys2Proof/Machine/Flags.lean ====
section
/-!
DEFINITION. The arithmetic unit: results and the flag that goes to VF (42_register_alu.md R110,
R111). Operands are taken as numbers, the exact result is computed, then narrowed.
-/

namespace Sys2Proof.Machine

/-- A flag as the byte stored in VF: 0x00 or 0x01 (10_state.md R22). -/
def flagByte (b : Bool) : Byte := if b then 1 else 0

/-- `(a + b) mod 256` (42_register_alu.md R113, R118). -/
def sumByte (a b : Byte) : Byte := BitVec.ofNat 8 (a.toNat + b.toNat)

/-- The carry of `a + b`: the exact sum is above 255 (R118). -/
def carry (a b : Byte) : Bool := decide (255 < a.toNat + b.toNat)

/-- `(a - b) mod 256` (R119). -/
def differenceByte (a b : Byte) : Byte := BitVec.ofInt 8 ((a.toNat : Int) - (b.toNat : Int))

/-- No borrow: `a >= b` (R119). -/
def noBorrow (a b : Byte) : Bool := decide (b.toNat ≤ a.toNat)

/-- `b >> 1` (R120). -/
def shiftedByte (b : Byte) : Byte := BitVec.ofNat 8 (b.toNat / 2)

/-- The bit shifted out, `b & 1` (R120). -/
def shiftedOut (b : Byte) : Bool := b.getLsbD 0

/-- Write the result to `V[x]`, then the flag to VF: when `x = 15` the flag stands
(40_tick_cycle.md R94). -/
def State.setRegFlag (s : State) (x : Nibble) (u : Byte) (flag : Bool) : State :=
  (s.setReg x u).setReg VF (flagByte flag)

end Sys2Proof.Machine
end

