-- ==== Sys2Proof/Machine/DisplayOps.lean ====
section
/-!
DEFINITION. Clear and draw (spec 44_display.md).
-/

namespace Sys2Proof.Machine

/-- `CLS` (44_display.md R140): all pixels off, VF untouched, dirty. -/
def execCls (s : State) : Result := .next (s.setDisp Display.blank)

/-- The display and collision after the sprite of `DRW Vx, Vy, n` is drawn: coordinates, I and
memory are those before VF is written (44_display.md R141, R146). -/
def drawSprite (s : State) (x y n : Nibble) : Drawing :=
  Drawing.rows (fun r => s.mem.read (ea s.i r)) ((s.reg x).toNat % 64) ((s.reg y).toNat % 32)
    n.toNat { disp := s.disp, coll := false }

/-- `DRW Vx, Vy, n` (44_display.md R141): VF is the collision, the display is marked dirty. -/
def execDrw (x y n : Nibble) (s : State) : Result :=
  .next ((s.setDisp (drawSprite s x y n).disp).setReg VF (flagByte (drawSprite s x y n).coll))

end Sys2Proof.Machine
end

