-- ==== Sys2Proof/Machine/IndexMemory.lean ====
section
/-!
DEFINITION. The address pointer and memory transfer (spec 43_index_memory.md). None of the six
can fault (R136).
-/

namespace Sys2Proof.Machine

/-- `LD I, nnn` (43_index_memory.md R130). -/
def execLdI (nnn : Addr) (s : State) : Result := .next (s.setI (zext16 nnn))

/-- `ADD I, Vx` (43_index_memory.md R131): modulo 4096, VF is not written. -/
def execAddI (x : Nibble) (s : State) : Result := .next (s.setI (advanceI s.i (s.reg x).toNat))

/-- `LD F, Vx` (43_index_memory.md R132). -/
def execLdF (x : Nibble) (s : State) : Result := .next (s.setI (glyphAddr (s.reg x)))

/-- `LD B, Vx` (43_index_memory.md R133): hundreds, tens, units at `EA(0)`, `EA(1)`, `EA(2)`. -/
def execLdB (x : Nibble) (s : State) : Result :=
  .next (s.setMem
    (((s.mem.write (ea s.i 0) (bcdDigit (s.reg x) 0)).write (ea s.i 1) (bcdDigit (s.reg x) 1)).write
      (ea s.i 2) (bcdDigit (s.reg x) 2)))

/-- `LD [I], Vx` (43_index_memory.md R134): `V[0]` to `V[x]` stored, I unchanged. -/
def execStRegs (x : Nibble) (s : State) : Result :=
  .next (s.setMem (storeRegisters s (x.toNat + 1)))

/-- `LD Vx, [I]` (43_index_memory.md R135): `V[0]` to `V[x]` loaded, I moved past the last byte
read. -/
def execLdRegs (x : Nibble) (s : State) : Result :=
  .next ((loadRegisters s (x.toNat + 1)).setI (advanceI s.i (x.toNat + 1)))

end Sys2Proof.Machine
end

