-- ==== Sys2Proof/Machine/KeypadTimer.lean ====
section
/-!
DEFINITION. Key tests, the key wait, the delay timer (spec 45_keypad_timer.md).
-/

namespace Sys2Proof.Machine

/-- `SKP Vx` (45_keypad_timer.md R150): KeyIndexOutOfRange above 15 (R158), else skip when the
key is pressed. -/
def execSkp (x : Nibble) (s : State) : Result :=
  if 15 < (s.reg x).toNat then .next (s.raise .keyIndexOutOfRange (.skp x))
  else .next (s.skipIf (keyPressed s.keys (s.reg x)))

/-- `SKNP Vx` (45_keypad_timer.md R151): KeyIndexOutOfRange above 15 (R158), else skip when the
key is not pressed. -/
def execSknp (x : Nibble) (s : State) : Result :=
  if 15 < (s.reg x).toNat then .next (s.raise .keyIndexOutOfRange (.sknp x))
  else .next (s.skipIf (!keyPressed s.keys (s.reg x)))

/-- `LD Vx, DT` (45_keypad_timer.md R152): the timer before this tick's decrement. -/
def execLdVxDt (x : Nibble) (s : State) : Result := .next (s.setReg x s.dt)

/-- `LD Vx, K` (45_keypad_timer.md R153): with no key pressed the advance of `pc` is undone, a
stall; else a pressed key's number. -/
def execLdVxK (x : Nibble) (s : State) : Result :=
  if s.keys = 0 then .next (s.setPc s.pc0) else .next (s.setReg x (keySelect s.keys))

/-- `LD DT, Vx` (45_keypad_timer.md R154): step 4 of the same tick then decrements it. -/
def execLdDtVx (x : Nibble) (s : State) : Result := .next (s.setDt (s.reg x))

end Sys2Proof.Machine
end

