-- ==== Sys2Proof/Machine/RegisterAlu.lean ====
section
/-!
DEFINITION. Register moves, the arithmetic-logic unit, random (spec 42_register_alu.md).
-/

namespace Sys2Proof.Machine

/-- `LD Vx, kk` (42_register_alu.md R112). -/
def execLdImm (x : Nibble) (kk : Byte) (s : State) : Result := .next (s.setReg x kk)

/-- `ADD Vx, kk` (42_register_alu.md R113): no flag. -/
def execAddImm (x : Nibble) (kk : Byte) (s : State) : Result :=
  .next (s.setReg x (sumByte (s.reg x) kk))

/-- `LD Vx, Vy` (42_register_alu.md R114). -/
def execLdReg (x y : Nibble) (s : State) : Result := .next (s.setReg x (s.reg y))

/-- `OR Vx, Vy` (42_register_alu.md R115): no flag. -/
def execOr (x y : Nibble) (s : State) : Result := .next (s.setReg x (s.reg x ||| s.reg y))

/-- `AND Vx, Vy` (42_register_alu.md R116): no flag. -/
def execAnd (x y : Nibble) (s : State) : Result := .next (s.setReg x (s.reg x &&& s.reg y))

/-- `XOR Vx, Vy` (42_register_alu.md R117): no flag. -/
def execXor (x y : Nibble) (s : State) : Result := .next (s.setReg x (s.reg x ^^^ s.reg y))

/-- `ADD Vx, Vy` (42_register_alu.md R118): VF is the carry. -/
def execAddReg (x y : Nibble) (s : State) : Result :=
  .next (s.setRegFlag x (sumByte (s.reg x) (s.reg y)) (carry (s.reg x) (s.reg y)))

/-- `SUB Vx, Vy` (42_register_alu.md R119): VF says that no borrow was needed. -/
def execSub (x y : Nibble) (s : State) : Result :=
  .next (s.setRegFlag x (differenceByte (s.reg x) (s.reg y)) (noBorrow (s.reg x) (s.reg y)))

/-- `SHR Vx, Vy` (42_register_alu.md R120): the value shifted is `V[y]`; VF is the bit shifted out. -/
def execShr (x y : Nibble) (s : State) : Result :=
  .next (s.setRegFlag x (shiftedByte (s.reg y)) (shiftedOut (s.reg y)))

/-- `RND Vx, kk` (42_register_alu.md R123): the byte on the `rnd` port and the mask. -/
def execRnd (x : Nibble) (kk : Byte) (s : State) : Result := .next (s.setReg x (s.rnd &&& kk))

end Sys2Proof.Machine
end

