-- ==== Sys2Proof/Machine/Tick.lean ====
section
/-!
DEFINITION. What a tick does around step 3 (spec 40_tick_cycle.md R90, R91, R93, R95), and the
input ports between two ticks.
-/

namespace Sys2Proof.Machine

/-- Both bytes of the word at `pc` lie inside memory (40_tick_cycle.md R91). -/
def State.fetchable (s : State) : Bool := decide (s.pc.toNat ≤ 0xFFE)

/-- The word at `pc`, high byte first, at any parity of `pc` (40_tick_cycle.md R91, 20_memory.md
R51, R54). -/
def State.fetchWord (s : State) : Word :=
  wordOfBytes (s.mem.read s.pc.toNat) (s.mem.read (s.pc.toNat + 1))

/-- Step 1's advance, `pc <- (pc0 + 2) mod 65536` (R91). `dirty` is rewritten by every tick
(R95): it is 0 until an instruction marks the display. -/
def State.advance (s : State) : State := { s with pc := s.pc + 2, dirty := false }

/-- A timer saturates at zero (R93). -/
def countDown (u : Byte) : Byte := if u = 0 then 0 else u - 1

/-- Step 4 (R93), which does not run on a tick that faults (R96, 60_exceptions.md R170). -/
def State.countTimers (s : State) : State :=
  if s.flt.isSome then s else { s with dt := countDown s.dt, st := countDown s.st }

/-- Step 0: while the fault latch is set a tick changes nothing and reports `dirty = 0`
(R90, R97, 60_exceptions.md R171). -/
def State.halted (s : State) : State := { s with dirty := false }

/-- A fetch outside memory: nothing is read and `pc` is not advanced (60_exceptions.md R164). -/
def State.fetchFault (s : State) : State := s.takeFault .fetchOutOfRange s.pc 0

/-- A word outside the opcode table: only `pc` was written before (R96, 60_exceptions.md R161). -/
def State.unsupported (s : State) (w : Word) : State :=
  s.advance.takeFault .unsupportedOpcode s.pc w

/-- Between two ticks the host may change the input ports (10_state.md R42, 60_exceptions.md R182,
R183; log entries 4 and 5): what `inputs` lists next; with nothing listed the keys are held and
`rnd` is a fresh free byte. -/
def State.nextInputs (s : State) : State :=
  match s.inputs with
  | t :: rest => { s with keys := t.keys, rnd := t.rnd, inputs := rest, ticked := true }
  | [] => { s with rnd := Config.rndByte s.draws, draws := s.draws + 1, ticked := true }

end Sys2Proof.Machine
end

