-- ==== Sys2Proof/Machine/Cycle.lean ====
section
/-!
DEFINITION. The whole tick as one function (spec 40_tick_cycle.md R90, R97).
-/

namespace Sys2Proof.Machine

/-- The tick of 40_tick_cycle.md R97, with the inputs `keys` and `rnd` that the state holds. -/
def tick (s : State) : Result :=
  if s.flt.isSome then .next s.halted
  else if s.fetchable then
    match decode s.fetchWord with
    | .ok i => onNext State.countTimers (exec i s.advance)
    | .error _ => .next (s.unsupported s.fetchWord)
  else .next s.fetchFault

end Sys2Proof.Machine
end

