-- ==== Sys2Proof/Machine/Step.lean ====
section
/-!
DEFINITION. One step is one tick (spec 40_tick_cycle.md R90), then the host's turn at the input
ports.
-/

namespace Sys2Proof.Machine

/-- One tick, then the input ports for the tick after it (log entries 4 and 5). -/
def step (s : State) : Host.Outcome State Fault Refusal := onNext State.nextInputs (tick s)

/-- The state with one instruction word stored where the next fetch reads, high byte at the lower
address (20_memory.md R51). The latch is cleared, and a `pc` that cannot be fetched from is moved
to the default start address, so that the next step runs the word. Log entry 23. -/
def State.withFetchWord (s : State) (nbits w : Nat) : State :=
  let place : Word := if s.fetchable then s.pc else defaultConfig.startAddr
  { s with
    pc := place
    flt := none
    mem := Memory.writeBytes s.mem place.toNat (tableBytes nbits w) }

end Sys2Proof.Machine
end

