-- ==== Sys2Proof/Machine/HostOps.lean ====
section
/-!
DEFINITION. What the host does between ticks (spec 70_reset_and_hazards.md R190 to R199,
60_exceptions.md R166, R171): power-on, the two resets, loading a program, setting a key.
-/

namespace Sys2Proof.Machine

/-- Power-on under a legal configuration (10_state.md R45, 70_reset_and_hazards.md R190): memory
holds `FONT` and zeros, `pc` is `START_ADDR`, everything else as in `State.reset`. An illegal
configuration has no power-on state (00_scope.md R9, decision D2). -/
def State.powerOn (c : Config) (_legal : c.wf = true) : State :=
  { State.reset with pc := c.startAddr, mem := Memory.writeBytes [] 0 c.font }

/-- Warm reset (70_reset_and_hazards.md R193): memory, display, timers, stack slots and ports are
unchanged. -/
def State.warmReset (c : Config) (s : State) : State :=
  { s with
    v := Vector.replicate 16 0
    pc := c.startAddr
    i := 0
    sp := 0
    flt := none
    dirty := false
    ticked := false }

/-- Memory with every byte from `a` up to 0xFFF zero, for `a` above the font: an unlisted byte
there is zero. -/
def Memory.zeroFrom (m : Memory) (a : Nat) : Memory := m.filter fun c => decide (c.1 < a)

/-- Full reset (70_reset_and_hazards.md R194): a warm reset that also zeroes `START_ADDR` to 0xFFF. -/
def State.fullReset (c : Config) (s : State) : State :=
  { s.warmReset c with mem := Memory.zeroFrom s.mem c.startAddr.toNat }

/-- The program's bytes in memory from `START_ADDR` upward, verbatim; nothing else changes
(70_reset_and_hazards.md R197). -/
def State.load (c : Config) (image : List Byte) (s : State) : State :=
  { s with mem := Memory.writeBytes s.mem c.startAddr.toNat image }

/-- Key `k` becomes pressed or released (10_state.md R42). -/
def State.setKey (k : Nat) (pressed : Bool) (s : State) : State :=
  { s with keys := if pressed then s.keys ||| BitVec.twoPow 16 k else s.keys &&& ~~~ BitVec.twoPow 16 k }

/-- What the host may do between two ticks (70_reset_and_hazards.md R209). -/
inductive HostOp where
  /-- Create the machine state afresh (R190). -/
  | powerOn
  /-- `reset` with its argument `clear_program` (00_scope.md R8). -/
  | reset (clearProgram : Bool)
  /-- `load_program(bytes)`. -/
  | load (image : List Byte)
  /-- `set_key`. -/
  | setKey (k : Nat) (pressed : Bool)
  /-- Another byte on the `rnd` port (60_exceptions.md R183). -/
  | setRnd (u : Byte)
  /-- Clear the fault latch and go on: the source's "skip" (60_exceptions.md R171). -/
  | resume
deriving DecidableEq, Repr

/-- A host operation between two ticks. A load that passes 0x1000 and a key index of 16 or more
fail and change nothing (60_exceptions.md R166); a load after the first tick of a run
(70_reset_and_hazards.md R197) and resuming after a fault (60_exceptions.md R171) have no meaning;
neither has anything, power-on included, under an illegal configuration (00_scope.md R9). -/
def hostOp (c : Config) (op : HostOp) (s : State) : Result :=
  if legal : c.wf = true then
    match op with
    | .powerOn => .next (State.powerOn c legal)
    | .reset false => .next (s.warmReset c)
    | .reset true => .next (s.fullReset c)
    | .load image =>
      if c.fits image then
        if s.ticked then .refused .loadDuringRun else .next (s.load c image)
      else .fault .romTooLarge
    | .setKey k pressed => if k < 16 then .next (s.setKey k pressed) else .fault .invalidKeyIndex
    | .setRnd u => .next { s with rnd := u }
    | .resume => .refused .resumeAfterFault
  else .refused .illegalConfig

end Sys2Proof.Machine
end

