-- ==== Sys2Proof/Safety.lean ====
section
/-!
DEFINITION. The terms that claims use: how a run stands, the invariant of reachable states, what
an instruction leaves unchanged.
-/

namespace Sys2Proof.Machine

/-! ### How a run stands (70_reset_and_hazards.md R206) -/

/-- The run has ended: no fault, and the word at `pc` is a jump to `pc` itself. The definition is
the spec's own (R206, decision D32). -/
def State.Ended (s : State) : Prop :=
  s.flt = none ∧ s.pc.toNat ≤ 0xFFE ∧ s.fetchWord = 0x1000 ||| s.pc

/-- The run has failed: a fault is latched (R206). -/
def State.Failed (s : State) : Prop := s.flt ≠ none

/-- The core waits on the host: no fault, the word at `pc` is an Fx0A, no key is pressed
(10_state.md R43). -/
def State.Waiting (s : State) : Prop :=
  s.flt = none ∧ s.pc.toNat ≤ 0xFFE ∧ (∃ x, s.fetchWord = encode (.ldVxK x)) ∧ s.keys = 0

/-! ### The invariant (10_state.md R47) -/

/-- What holds after power-on and after every tick, fault or not (10_state.md R47 with R26, R29,
R33). R47 (a) and (d) hold by the types of `sp`, `v`, `dt`, `st`. That no stack slot is above
0x1000 is what R26's derivation of (c) uses ("a pushed value that was itself a `pc`"). -/
structure State.Inv (s : State) : Prop where
  /-- R47 (e), and the memory's canonical form. -/
  mem_wf : Memory.wf s.mem = true
  /-- R47 (b). -/
  i_range : s.i.toNat ≤ 0xFFF
  /-- R47 (c). -/
  pc_range : s.pc.toNat ≤ 0x1002
  /-- R26: a slot holds 0 or a `pc` that `CALL` pushed. -/
  slot_range : ∀ k (h : k < 16), (s.stack[k]).toNat ≤ 0x1000
  /-- R47 (f). -/
  st_zero : s.st = 0

/-! ### What is left unchanged -/

/-- The pieces of state. -/
inductive Part where
  | regs | pc | i | sp | stack | dt | st | mem | disp | dirty | flt | keys | rnd | host
deriving DecidableEq, Repr

/-- The piece is the same in both states: every register, every byte of memory by its reading,
every pixel. `host` is the model's own three fields. -/
def State.Same (s t : State) : Part → Prop
  | .regs => ∀ z, t.reg z = s.reg z
  | .pc => t.pc = s.pc
  | .i => t.i = s.i
  | .sp => t.sp = s.sp
  | .stack => t.stack = s.stack
  | .dt => t.dt = s.dt
  | .st => t.st = s.st
  | .mem => ∀ a, t.mem.read a = s.mem.read a
  | .disp => t.disp = s.disp
  | .dirty => t.dirty = s.dirty
  | .flt => t.flt = s.flt
  | .keys => t.keys = s.keys
  | .rnd => t.rnd = s.rnd
  | .host => t.inputs = s.inputs ∧ t.draws = s.draws ∧ t.ticked = s.ticked

/-- Every piece but the named ones is the same. -/
def State.SameBut (s t : State) (changed : List Part) : Prop := ∀ p, p ∉ changed → s.Same t p

/-- Every general register but the named ones is the same. -/
def State.SameRegsBut (s t : State) (changed : List Nibble) : Prop :=
  ∀ z, z ∉ changed → t.reg z = s.reg z

/-- Every byte of memory at an address that is not stored to reads as before. -/
def State.SameMemBut (s t : State) (stored : Nat → Prop) : Prop :=
  ∀ a, ¬ stored a → t.mem.read a = s.mem.read a

/-- The key levels, set from outside. -/
def State.withKeys (s : State) (k : BitVec 16) : State := { s with keys := k }

/-- The random byte, set from outside. -/
def State.withRnd (s : State) (u : Byte) : State := { s with rnd := u }

/-! ### The sprite as a set of pixels (44_display.md R141 to R144) -/

/-- The sprite of `DRW Vx, Vy, n` in state `s` covers pixel `(cx, cy)` with a bit that is 1: some
row `r` and column `c` of it wrap to that pixel, and bit `7 - c` of the row's byte is 1. -/
def State.Covers (s : State) (x y n : Nibble) (cx cy : Nat) : Prop :=
  ∃ r < n.toNat, ∃ c < 8, (s.mem.read (ea s.i r)).getLsbD (7 - c) = true
    ∧ cx = ((s.reg x).toNat % 64 + c) % 64 ∧ cy = ((s.reg y).toNat % 32 + r) % 32

end Sys2Proof.Machine

namespace Sys2Proof

open Machine

/-! ### Who writes what -/

/-- The general registers an instruction may write (10_state.md R21, R22). -/
def Instr.writesReg : Instr → Nibble → Bool
  | .ldImm x _, z | .addImm x _, z | .ldReg x _, z | .orReg x _, z | .andReg x _, z
  | .xorReg x _, z | .rnd x _, z | .ldVxDt x, z | .ldVxK x, z => z == x
  | .addReg x _, z | .subReg x _, z | .shr x _, z => z == x || z == VF
  | .drw _ _ _, z => z == VF
  | .ldRegs x, z => decide (z ≤ x)
  | .cls, _ | .ret, _ | .jp _, _ | .call _, _ | .seImm _ _, _ | .sneImm _ _, _ | .seReg _ _, _
  | .sneReg _ _, _ | .ldI _, _ | .skp _, _ | .sknp _, _ | .ldDtVx _, _ | .addI _, _ | .ldF _, _
  | .ldB _, _ | .stRegs _, _ => false

/-- The pieces of state an instruction may write beyond the advance of `pc` in step 1
(10_state.md R21, R24, R28, R30 to R33, R35, R40, R42; 20_memory.md R55). The four that can fault
also write the latch and the dirty report (60_exceptions.md R160, R170). -/
def Instr.writes : Instr → List Part
  | .cls => [.disp, .dirty]
  | .ret => [.pc, .sp, .flt, .dirty]
  | .jp _ => [.pc]
  | .call _ => [.pc, .sp, .stack, .flt, .dirty]
  | .seImm _ _ | .sneImm _ _ | .seReg _ _ | .sneReg _ _ => [.pc]
  | .ldImm _ _ | .addImm _ _ | .ldReg _ _ | .orReg _ _ | .andReg _ _ | .xorReg _ _ => [.regs]
  | .addReg _ _ | .subReg _ _ | .shr _ _ | .rnd _ _ | .ldVxDt _ => [.regs]
  | .ldI _ | .addI _ | .ldF _ => [.i]
  | .drw _ _ _ => [.disp, .dirty, .regs]
  | .skp _ | .sknp _ => [.pc, .flt, .dirty]
  | .ldVxK _ => [.regs, .pc]
  | .ldDtVx _ => [.dt]
  | .ldB _ | .stRegs _ => [.mem]
  | .ldRegs _ => [.regs, .i]

end Sys2Proof
end

