-- ==== Sys2Proof/Certificates/Slice0/Obligations.lean ====
section
/-!
DEFINITION. The statements about the model, from the numbered rules of spec/. `exec i s` runs
instruction `i` in a state whose `pc` has already been advanced past it (40_tick_cycle.md R91).
-/

open Sys2Proof Sys2Proof.Machine

/-! ### Encoding (30_encoding.md) -/

/-- Decoding the word of any instruction gives the instruction back, with every operand, also
from its two bytes in memory order with anything after them. -/
def Obligations.DecodeOfEncodeIsInstruction : Prop :=
  ∀ i : Instr, i.wf = true →
    decode (encode i) = .ok i
      ∧ ∀ rest, decodeBytes (highByte (encode i) :: lowByte (encode i) :: rest) = .ok (i, rest)

/-- Each instruction word has one meaning and each instruction one word. -/
def Obligations.EncodeOfDecodedWordIsWord : Prop :=
  ∀ (w : Word) (i : Instr), decode w = .ok i → encode i = w

/-- R75: the dispatcher and the mask and match columns name the same instruction for every word,
and no two rows overlap. -/
def Obligations.DecodeAgreesWithOpcodeMap : Prop :=
  (∀ (w : Word) (i : Instr), decode w = .ok i → i.row ∈ opcodeMap ∧ i.row.holds w = true)
    ∧ (∀ (w : Word) (r : OpcodeRow), r ∈ opcodeMap → r.holds w = true →
        ∃ i, decode w = .ok i ∧ i.row = r)
    ∧ (∀ (w : Word) (r r' : OpcodeRow), r ∈ opcodeMap → r' ∈ opcodeMap → r.holds w = true →
        r'.holds w = true → r = r')

/-- The table of unknown words, group by group (30_encoding.md section 5, derived there): the
decoder rejects exactly these, each by its name. -/
def Obligations.UnknownWordsByGroup : Prop :=
  ∀ w : Word,
    ((∃ i, decode w = .ok i) ∨ decode w = .error (.unknownOpcode w))
      ∧ (decode w = .error (.unknownOpcode w) ↔
          (fieldOp w = 0x0 ∧ w ≠ 0x00E0 ∧ w ≠ 0x00EE)
            ∨ (fieldOp w = 0x5 ∧ fieldN w ≠ 0)
            ∨ (fieldOp w = 0x8 ∧ 7 ≤ (fieldN w).toNat)
            ∨ (fieldOp w = 0x9 ∧ fieldN w ≠ 0)
            ∨ fieldOp w = 0xB
            ∨ (fieldOp w = 0xE ∧ fieldKk w ≠ 0x9E ∧ fieldKk w ≠ 0xA1)
            ∨ (fieldOp w = 0xF ∧ ∀ f ∈ [0x07, 0x0A, 0x15, 0x1E, 0x29, 0x33, 0x55, 0x65],
                fieldKk w ≠ BitVec.ofNat 8 f))

/-- Words written out from the encodings: one of each format, and the two nearest unknown ones. -/
def Obligations.DecodeOfWrittenWords : Prop :=
  decodeBytes [0x00, 0xEE] = .ok (.ret, [])
    ∧ decodeBytes [0x2A, 0xBC] = .ok (.call 0xABC, [])
    ∧ decodeBytes [0x60, 0x05] = .ok (.ldImm 0 0x05, [])
    ∧ decodeBytes [0x80, 0x14] = .ok (.addReg 0 1, [])
    ∧ decodeBytes [0xDA, 0xB5] = .ok (.drw 0xA 0xB 5, [])
    ∧ decodeBytes [0xFA, 0x33] = .ok (.ldB 0xA, [])
    ∧ decodeBytes [0xFA, 0x18] = .error (.unknownOpcode 0xFA18)
    ∧ decodeBytes [0x5A, 0xB1] = .error (.unknownOpcode 0x5AB1)

/-! ### The tick (40_tick_cycle.md, 60_exceptions.md) -/

/-- When the bytes at `pc` decode to `i`, a step is: `pc` advanced by 2, `exec i`, the timers
(unless the instruction faulted: the spec's decision D19; log entry 14), the input ports for the
next tick. That last part (`State.nextInputs`) is the MODEL'S CHOICE, not the spec's: the spec
gives the ports' next values to the host (log entries 4, 5, 26). -/
def Obligations.StepRunsDecodedInstruction : Prop :=
  ∀ (s : State) (i : Instr), s.flt = none → s.pc.toNat ≤ 0xFFE →
    decode (wordOfBytes (s.mem.read s.pc.toNat) (s.mem.read (s.pc.toNat + 1))) = .ok i →
    step s = onNext (fun t => t.countTimers.nextInputs)
      (exec i { s with pc := s.pc + 2, dirty := false })

/-- Every step of every state answers a next state: no tick blocks, and no data stops a run. -/
def Obligations.EveryTickAnswersNext : Prop := ∀ s : State, ∃ t, step s = .next t

/-- A word outside the opcode table latches UnsupportedOpcode with the address it was fetched
from and the word; only `pc`, the latch, `dirty` and the input ports change. The latch and the
address are the spec's decisions (D18, D20; log entries 14 and 15). -/
def Obligations.UnknownWordIsLatched : Prop :=
  ∀ (s : State) (r : Reject), s.flt = none → s.pc.toNat ≤ 0xFFE → decode s.fetchWord = .error r →
    ∃ t, step s = .next t ∧ t.flt = some ⟨.unsupportedOpcode, s.pc, s.fetchWord⟩
      ∧ t.pc.toNat = s.pc.toNat + 2 ∧ t.dirty = false
      ∧ s.SameBut t [.pc, .flt, .dirty, .keys, .rnd, .host]

/-- A fetch whose word is not inside memory latches FetchOutOfRange with `pc` and the word 0; `pc`
is not advanced. The fault is the spec's decision (D8; log entry 7). -/
def Obligations.FetchOutsideMemoryIsLatched : Prop :=
  ∀ s : State, s.flt = none → 0xFFE < s.pc.toNat →
    ∃ t, step s = .next t ∧ t.flt = some ⟨.fetchOutOfRange, s.pc, 0⟩ ∧ t.dirty = false
      ∧ s.SameBut t [.flt, .dirty, .keys, .rnd, .host]

/-- While a fault is latched a tick changes nothing but `dirty`, which is 0, and the input ports.
The halt is the spec's decision (D20; log entry 15). -/
def Obligations.FaultedCoreIsFrozen : Prop :=
  ∀ s : State, s.flt ≠ none →
    ∃ t, step s = .next t ∧ t.dirty = false ∧ s.SameBut t [.dirty, .keys, .rnd, .host]

/-- Exactly these conditions fault, each with its record: cause, address of the failing
instruction, its word (codes and addresses are the spec's decisions D8, D15, D17, D18; log
entries 7, 12, 14). -/
def Obligations.FaultsExactlyWhen : Prop :=
  ∀ (s t : State) (r : FaultRecord), s.flt = none → step s = .next t →
    (t.flt = some r ↔
      (0xFFE < s.pc.toNat ∧ r = ⟨.fetchOutOfRange, s.pc, 0⟩)
        ∨ (s.pc.toNat ≤ 0xFFE ∧ (∃ e, decode s.fetchWord = .error e)
            ∧ r = ⟨.unsupportedOpcode, s.pc, s.fetchWord⟩)
        ∨ (s.pc.toNat ≤ 0xFFE ∧ (∃ nnn, decode s.fetchWord = .ok (.call nnn)) ∧ s.sp.val = 16
            ∧ r = ⟨.stackOverflow, s.pc, s.fetchWord⟩)
        ∨ (s.pc.toNat ≤ 0xFFE ∧ decode s.fetchWord = .ok .ret ∧ s.sp.val = 0
            ∧ r = ⟨.stackUnderflow, s.pc, s.fetchWord⟩)
        ∨ (s.pc.toNat ≤ 0xFFE
            ∧ (∃ x, (decode s.fetchWord = .ok (.skp x) ∨ decode s.fetchWord = .ok (.sknp x))
                ∧ 15 < (s.reg x).toNat)
            ∧ r = ⟨.keyIndexOutOfRange, s.pc, s.fetchWord⟩))

/-- A tick that faults has no effect but the latch, `dirty = 0`, and the advance of `pc` (none for
FetchOutOfRange): no register, no byte, no pixel, no stack slot, no timer (the timers by the
spec's decision D19; log entry 14). -/
def Obligations.FaultsArePrecise : Prop :=
  ∀ (s t : State) (r : FaultRecord), s.flt = none → step s = .next t → t.flt = some r →
    r.addr = s.pc ∧ t.dirty = false
      ∧ t.pc = (if r.code = .fetchOutOfRange then s.pc else s.pc + 2)
      ∧ s.SameBut t [.pc, .flt, .dirty, .keys, .rnd, .host]

/-- In a tick that completes each timer counts down by one and stops at zero, whatever the
instruction; Fx15 loads before the count and Fx07 reads before it; a tick that faults counts
nothing. That Fx15's value is the one counted is derived in the spec. -/
def Obligations.TimersCountOncePerTick : Prop :=
  ∀ (s t : State) (i : Instr), s.flt = none → s.pc.toNat ≤ 0xFFE → decode s.fetchWord = .ok i →
    step s = .next t →
    (t.flt = none → t.st.toNat = s.st.toNat - 1
      ∧ (∀ x, i = .ldDtVx x → t.dt.toNat = (s.reg x).toNat - 1)
      ∧ ((∀ x, i ≠ .ldDtVx x) → t.dt.toNat = s.dt.toNat - 1)
      ∧ (∀ x, i = .ldVxDt x → t.reg x = s.dt))
    ∧ (t.flt ≠ none → t.dt = s.dt ∧ t.st = s.st)

/-- `dirty` reports after each tick whether it executed CLS or DRW (by kind, not by effect: the
spec's decision D26; log entry 19). -/
def Obligations.DirtyReportsClearOrDraw : Prop :=
  ∀ s t : State, step s = .next t →
    (t.dirty = true ↔ s.flt = none ∧ s.pc.toNat ≤ 0xFFE
      ∧ (decode s.fetchWord = .ok .cls ∨ ∃ x y n, decode s.fetchWord = .ok (.drw x y n)))

/-- The display changes only in ticks that report `dirty = 1`. -/
def Obligations.DisplayChangesOnlyWhenDirty : Prop :=
  ∀ s t : State, step s = .next t → t.dirty = false → t.disp = s.disp

/-- The invariant of 10_state.md R47 is kept by every step from every state that has it: memory
stays canonical and inside 0x000 to 0xFFF, I below 4096, `pc` at most 0x1002, stack slots at most
0x1000, the sound timer 0. -/
def Obligations.EveryStepKeepsInv : Prop :=
  ∀ s t : State, s.Inv → step s = .next t → t.Inv

/-- The invariant holds right after power-on. -/
def Obligations.InvHoldsAtReset : Prop := State.reset.Inv

/-- A run that has ended stays ended: the jump to itself runs again, and the timers go on
counting. The notion of an end is the spec's own (D32; log entry 28). -/
def Obligations.EndedRunStaysEnded : Prop :=
  ∀ s : State, s.Ended →
    ∃ t, step s = .next t ∧ t.Ended ∧ t.pc = s.pc ∧ t.dt.toNat = s.dt.toNat - 1
      ∧ s.SameBut t [.dt, .st, .dirty, .keys, .rnd, .host]

/-- A core that waits for a key keeps `pc` and everything else, while the timers count. -/
def Obligations.WaitingTickOnlyCounts : Prop :=
  ∀ s : State, s.Waiting →
    ∃ t, step s = .next t ∧ t.dt.toNat = s.dt.toNat - 1 ∧ t.st.toNat = s.st.toNat - 1
      ∧ t.dirty = false ∧ s.SameBut t [.dt, .st, .dirty, .keys, .rnd, .host]

/-! ### Who writes and who reads what -/

/-- Whatever an instruction does, it writes no piece of state and no general register outside its
own list (`Instr.writes`, `Instr.writesReg` of Safety.lean); the sound timer, the keys and the
random port are in no list. -/
def Obligations.InstructionsWriteOnlyTheirOwn : Prop :=
  ∀ (i : Instr) (s t : State), exec i s = .next t →
    s.SameBut t i.writes ∧ ∀ z, i.writesReg z = false → t.reg z = s.reg z

/-- No instruction but Ex9E, ExA1 and Fx0A depends on the key vector. -/
def Obligations.OnlyKeyInstructionsReadKeys : Prop :=
  ∀ (i : Instr) (s : State) (k : BitVec 16),
    (∀ x, i ≠ .skp x) → (∀ x, i ≠ .sknp x) → (∀ x, i ≠ .ldVxK x) →
    exec i (s.withKeys k) = onNext (fun t => t.withKeys k) (exec i s)

/-- No instruction but Cxkk depends on the random byte. -/
def Obligations.OnlyRndReadsRandomPort : Prop :=
  ∀ (i : Instr) (s : State) (u : Byte), (∀ x kk, i ≠ .rnd x kk) →
    exec i (s.withRnd u) = onNext (fun t => t.withRnd u) (exec i s)

/-- Memory in canonical form is determined by its readings: equal memories are equal data (the
model's own representation, log entry 24). -/
def Obligations.CanonicalMemoryIsItsReadings : Prop :=
  ∀ m m' : Memory, Memory.wf m = true → Memory.wf m' = true →
    (∀ a < 0x1000, m.read a = m'.read a) → m = m'

/-! ### Control flow (41_control_flow.md) -/

/-- R102: JP loads exactly `nnn` and changes nothing else. -/
def Obligations.JumpLoadsTarget : Prop :=
  ∀ (s : State) (nnn : Addr),
    ∃ t, exec (.jp nnn) s = .next t ∧ t.pc.toNat = nnn.toNat ∧ s.SameBut t [.pc]

/-- R103: CALL pushes the advanced `pc` and jumps; with a full stack it raises StackOverflow and
writes nothing else. -/
def Obligations.CallPushesAndJumps : Prop :=
  ∀ (s : State) (nnn : Addr),
    (s.sp.val < 16 → ∃ t, exec (.call nnn) s = .next t ∧ t.pc.toNat = nnn.toNat
      ∧ t.sp.val = s.sp.val + 1
      ∧ (∀ k (h : k < 16), t.stack[k] = if k = s.sp.val then s.pc else s.stack[k])
      ∧ s.SameBut t [.pc, .sp, .stack])
    ∧ (s.sp.val = 16 → ∃ t, exec (.call nnn) s = .next t
      ∧ (∃ r, t.flt = some r ∧ r.code = .stackOverflow) ∧ s.SameBut t [.flt, .dirty])

/-- R101: RET pops into `pc`; with an empty stack it raises StackUnderflow and writes nothing
else. -/
def Obligations.ReturnPopsIntoPc : Prop :=
  ∀ s : State,
    (0 < s.sp.val → ∃ t, exec .ret s = .next t ∧ t.sp.val = s.sp.val - 1
      ∧ (∀ k (h : k < 16), k + 1 = s.sp.val → t.pc = s.stack[k]) ∧ s.SameBut t [.pc, .sp])
    ∧ (s.sp.val = 0 → ∃ t, exec .ret s = .next t
      ∧ (∃ r, t.flt = some r ∧ r.code = .stackUnderflow) ∧ s.SameBut t [.flt, .dirty])

/-- A CALL followed by a RET, with nothing between that moves the stack, restores `sp` and goes on
at the word after the CALL (derived in the spec, section R108). -/
def Obligations.CallThenReturnResumes : Prop :=
  ∀ (s : State) (nnn : Addr), s.sp.val < 16 →
    ∃ t, exec (.call nnn) s = .next t
      ∧ ∀ b : State, b.sp = t.sp → b.stack = t.stack →
        ∃ u, exec .ret b = .next u ∧ u.sp = s.sp ∧ u.pc = s.pc
          ∧ ∀ k (h : k < 16), k < s.sp.val → u.stack[k] = s.stack[k]

/-- R104, R105: the skips on an immediate pass over 2 more bytes modulo 65536 exactly when the
condition holds, and change nothing else. -/
def Obligations.ImmediateSkips : Prop :=
  ∀ (s : State) (x : Nibble) (kk : Byte),
    (∃ t, exec (.seImm x kk) s = .next t
      ∧ t.pc.toNat = (if (s.reg x).toNat = kk.toNat then (s.pc.toNat + 2) % 65536 else s.pc.toNat)
      ∧ s.SameBut t [.pc])
    ∧ (∃ t, exec (.sneImm x kk) s = .next t
      ∧ t.pc.toNat = (if (s.reg x).toNat ≠ kk.toNat then (s.pc.toNat + 2) % 65536 else s.pc.toNat)
      ∧ s.SameBut t [.pc])

/-- R106, R107: the skips on two registers. -/
def Obligations.RegisterSkips : Prop :=
  ∀ (s : State) (x y : Nibble),
    (∃ t, exec (.seReg x y) s = .next t
      ∧ t.pc.toNat = (if (s.reg x).toNat = (s.reg y).toNat then (s.pc.toNat + 2) % 65536
          else s.pc.toNat)
      ∧ s.SameBut t [.pc])
    ∧ (∃ t, exec (.sneReg x y) s = .next t
      ∧ t.pc.toNat = (if (s.reg x).toNat ≠ (s.reg y).toNat then (s.pc.toNat + 2) % 65536
          else s.pc.toNat)
      ∧ s.SameBut t [.pc])

/-! ### Registers and arithmetic (42_register_alu.md) -/

/-- R112, R113, R114: load immediate, add immediate modulo 256 with no flag, copy; no other
register and no other state changes. -/
def Obligations.LoadCopyAddImmediate : Prop :=
  ∀ (s : State) (x y : Nibble) (kk : Byte),
    (∃ t, exec (.ldImm x kk) s = .next t ∧ t.reg x = kk ∧ s.SameRegsBut t [x]
      ∧ s.SameBut t [.regs])
    ∧ (∃ t, exec (.addImm x kk) s = .next t
      ∧ (t.reg x).toNat = ((s.reg x).toNat + kk.toNat) % 256 ∧ s.SameRegsBut t [x]
      ∧ s.SameBut t [.regs])
    ∧ (∃ t, exec (.ldReg x y) s = .next t ∧ t.reg x = s.reg y ∧ s.SameRegsBut t [x]
      ∧ s.SameBut t [.regs])

/-- R115, R116, R117: bitwise or, and, exclusive or; VF keeps its value unless it is `Vx`. -/
def Obligations.LogicWithoutFlag : Prop :=
  ∀ (s : State) (x y : Nibble),
    (∃ t, exec (.orReg x y) s = .next t
      ∧ (∀ k < 8, (t.reg x).getLsbD k = ((s.reg x).getLsbD k || (s.reg y).getLsbD k))
      ∧ s.SameRegsBut t [x] ∧ s.SameBut t [.regs])
    ∧ (∃ t, exec (.andReg x y) s = .next t
      ∧ (∀ k < 8, (t.reg x).getLsbD k = ((s.reg x).getLsbD k && (s.reg y).getLsbD k))
      ∧ s.SameRegsBut t [x] ∧ s.SameBut t [.regs])
    ∧ (∃ t, exec (.xorReg x y) s = .next t
      ∧ (∀ k < 8, (t.reg x).getLsbD k = ((s.reg x).getLsbD k ^^ (s.reg y).getLsbD k))
      ∧ s.SameRegsBut t [x] ∧ s.SameBut t [.regs])

/-- The sum modulo 256 and the carry, from operands read first; with `x = 15` the flag stands (that
last by the spec's decision D12; log entry 20). -/
def Obligations.AddSetsCarry : Prop :=
  ∀ (s : State) (x y : Nibble),
    ∃ t, exec (.addReg x y) s = .next t
      ∧ (x ≠ VF → (t.reg x).toNat = ((s.reg x).toNat + (s.reg y).toNat) % 256)
      ∧ (t.reg VF).toNat = (if (s.reg x).toNat + (s.reg y).toNat > 255 then 1 else 0)
      ∧ s.SameRegsBut t [x, VF] ∧ s.SameBut t [.regs]

/-- The difference modulo 256 and the no-borrow flag; with `x = 15` the flag stands (that last by the
spec's decision D12; log entry 20). -/
def Obligations.SubSetsNoBorrow : Prop :=
  ∀ (s : State) (x y : Nibble),
    ∃ t, exec (.subReg x y) s = .next t
      ∧ (x ≠ VF → ((t.reg x).toNat : Int) = (((s.reg x).toNat : Int) - (s.reg y).toNat) % 256)
      ∧ (t.reg VF).toNat = (if (s.reg x).toNat ≥ (s.reg y).toNat then 1 else 0)
      ∧ s.SameRegsBut t [x, VF] ∧ s.SameBut t [.regs]

/-- `V[y]` shifted right by one and the bit shifted out; with `x = 15` the flag stands (that last by
the spec's decision D12; log entry 20). -/
def Obligations.ShiftRightSetsBitOut : Prop :=
  ∀ (s : State) (x y : Nibble),
    ∃ t, exec (.shr x y) s = .next t
      ∧ (x ≠ VF → (t.reg x).toNat = (s.reg y).toNat / 2)
      ∧ (t.reg VF).toNat = (s.reg y).toNat % 2
      ∧ s.SameRegsBut t [x, VF] ∧ s.SameBut t [.regs]

/-- RND: the byte on the port, whatever it is, and the mask; no bit outside the mask is set; no
flag. After a step with no listed input the port holds the next free byte (log entry 4). -/
def Obligations.RandomIsMaskedPortByte : Prop :=
  ∀ (s : State) (x : Nibble) (kk : Byte),
    (∃ t, exec (.rnd x kk) s = .next t ∧ t.reg x = s.rnd &&& kk ∧ t.reg x &&& ~~~ kk = 0
      ∧ s.SameRegsBut t [x] ∧ s.SameBut t [.regs])
    ∧ ∀ t, s.inputs = [] → step s = .next t →
        t.rnd = Config.rndByte s.draws ∧ t.draws = s.draws + 1

/-! ### Address pointer and memory (43_index_memory.md) -/

/-- R130, R131: I loaded with `nnn`; I plus a register modulo 4096, VF untouched. -/
def Obligations.IndexLoadAndAdd : Prop :=
  ∀ (s : State) (x : Nibble) (nnn : Addr),
    (∃ t, exec (.ldI nnn) s = .next t ∧ t.i.toNat = nnn.toNat ∧ s.SameBut t [.i])
    ∧ (∃ t, exec (.addI x) s = .next t ∧ t.i.toNat = (s.i.toNat + (s.reg x).toNat) % 4096
      ∧ s.SameBut t [.i])

/-- I becomes `V[x] * 5`, with no masking of `V[x]` (the spec's decision D29; log entry 21); for a
digit it is the address of its glyph, so at power-on the five bytes there are the glyph's. -/
def Obligations.GlyphAddressPointsIntoFont : Prop :=
  ∀ (s : State) (x : Nibble),
    ∃ t, exec (.ldF x) s = .next t ∧ t.i.toNat = (s.reg x).toNat * 5 ∧ s.SameBut t [.i]
      ∧ ∀ (c : Config) (legal : c.wf = true), s.mem = (State.powerOn c legal).mem →
          (s.reg x).toNat < 16 →
          ∀ k < 5, t.mem.read (ea t.i k) = c.font.getD (5 * (s.reg x).toNat + k) 0

/-- Hundreds, tens and units at `EA(0)`, `EA(1)`, `EA(2)`; no other byte changes. That `EA` wraps
modulo 4096 and that the font can be stored into are the spec's decisions D10 and D11 (log entries
9 and 10). -/
def Obligations.StoreDecimalDigits : Prop :=
  ∀ (s : State) (x : Nibble),
    ∃ t, exec (.ldB x) s = .next t
      ∧ (t.mem.read (ea s.i 0)).toNat = (s.reg x).toNat / 100
      ∧ (t.mem.read (ea s.i 1)).toNat = (s.reg x).toNat / 10 % 10
      ∧ (t.mem.read (ea s.i 2)).toNat = (s.reg x).toNat % 10
      ∧ s.SameMemBut t (fun a => ∃ k < 3, a = ea s.i k) ∧ s.SameBut t [.mem]

/-- `V[0]` to `V[x]` at `EA(0)` upward; I and every other byte unchanged. That `EA` wraps modulo 4096
and that the font can be stored into are the spec's decisions D10 and D11 (log entries 9 and 10). -/
def Obligations.StoreRegisterBlock : Prop :=
  ∀ (s : State) (x : Nibble),
    ∃ t, exec (.stRegs x) s = .next t
      ∧ (∀ z : Nibble, z ≤ x → t.mem.read (ea s.i z.toNat) = s.reg z)
      ∧ s.SameMemBut t (fun a => ∃ k ≤ x.toNat, a = ea s.i k) ∧ s.SameBut t [.mem]

/-- `V[0]` to `V[x]` loaded from `EA(0)` upward, the others kept; I ends one past the last byte
read, modulo 4096 (the spec's decision D10; log entry 9). -/
def Obligations.LoadRegisterBlock : Prop :=
  ∀ (s : State) (x : Nibble),
    ∃ t, exec (.ldRegs x) s = .next t
      ∧ (∀ z : Nibble, z ≤ x → t.reg z = s.mem.read (ea s.i z.toNat))
      ∧ (∀ z : Nibble, ¬ z ≤ x → t.reg z = s.reg z)
      ∧ t.i.toNat = (s.i.toNat + x.toNat + 1) % 4096 ∧ s.SameBut t [.regs, .i]

/-- A block store and then a block load with the same I and x, whatever happened to the registers
between, gives the stored values back. -/
def Obligations.StoreThenLoadRestoresRegisters : Prop :=
  ∀ (s : State) (x : Nibble),
    ∃ t, exec (.stRegs x) s = .next t
      ∧ ∀ b : State, b.i = s.i → (∀ a, b.mem.read a = t.mem.read a) →
        ∃ u, exec (.ldRegs x) b = .next u ∧ (∀ z : Nibble, z ≤ x → u.reg z = s.reg z)
          ∧ u.i.toNat = (s.i.toNat + x.toNat + 1) % 4096

/-- A stored byte is fetched as code by the very next fetch, with no fence: after a block store,
a `pc` at an address stored to fetches the stored registers as its word. -/
def Obligations.FetchSeesStoredBytes : Prop :=
  ∀ (s : State) (x z : Nibble), z < x →
    ∃ t, exec (.stRegs x) s = .next t
      ∧ ∀ b : State, (∀ a, b.mem.read a = t.mem.read a) → b.pc.toNat = ea s.i z.toNat →
          b.pc.toNat ≤ 0xFFE → b.fetchWord = s.reg z ++ s.reg (z + 1)

/-! ### Display (44_display.md) -/

/-- R140: every pixel off, the display marked dirty, VF and everything else unchanged. -/
def Obligations.ClearTurnsEveryPixelOff : Prop :=
  ∀ s : State, ∃ t, exec .cls s = .next t
    ∧ (∀ cx < 64, ∀ cy < 32, t.disp.pixel cx cy = false) ∧ t.dirty = true
    ∧ s.SameBut t [.disp, .dirty]

/-- DRW is the exclusive or of the display with the set of pixels the sprite covers, wrapped on
both axes, and VF is 1 exactly when that set meets the pixels that were on (bit 7 leftmost is the
spec's choice from general knowledge, D13; log entry 11; the wrap of the sprite's addresses, the
coordinates read before VF is written, and `dirty` by kind are its decisions D10, D12, D26; log
entries 9, 20, 19). -/
def Obligations.DrawXorsCoveredPixels : Prop :=
  ∀ (s : State) (x y n : Nibble),
    ∃ t, exec (.drw x y n) s = .next t
      ∧ (∀ cx < 64, ∀ cy < 32,
          (s.Covers x y n cx cy → t.disp.pixel cx cy = !s.disp.pixel cx cy)
          ∧ (¬ s.Covers x y n cx cy → t.disp.pixel cx cy = s.disp.pixel cx cy))
      ∧ ((∃ cx < 64, ∃ cy < 32, s.Covers x y n cx cy ∧ s.disp.pixel cx cy = true) →
          t.reg VF = 1)
      ∧ ((∀ cx < 64, ∀ cy < 32, s.Covers x y n cx cy → s.disp.pixel cx cy = false) →
          t.reg VF = 0)
      ∧ t.dirty = true ∧ s.SameRegsBut t [VF] ∧ s.SameBut t [.disp, .dirty, .regs]

/-- Drawing the same sprite at the same place twice restores the display; VF reports a collision
on the second draw only, when the covered pixels were off and the sprite has a bit set; with no
bit set, on neither. Which pixels are covered rests on bit 7 leftmost (D13, general knowledge; log
entry 11), on the wrap of the sprite's addresses (D10; log entry 9) and on the coordinates being
read before VF is written (D12; log entry 20). -/
def Obligations.DrawTwiceRestoresDisplay : Prop :=
  ∀ (s : State) (x y n : Nibble),
    ∃ t, exec (.drw x y n) s = .next t
      ∧ ∀ b : State, b.disp = t.disp → b.i = s.i → b.reg x = s.reg x → b.reg y = s.reg y →
          (∀ a, b.mem.read a = s.mem.read a) →
          ∃ u, exec (.drw x y n) b = .next u ∧ u.disp = s.disp
            ∧ ((∀ cx < 64, ∀ cy < 32, s.Covers x y n cx cy → s.disp.pixel cx cy = false) →
                (∃ cx < 64, ∃ cy < 32, s.Covers x y n cx cy) → t.reg VF = 0 ∧ u.reg VF = 1)
            ∧ ((∀ cx < 64, ∀ cy < 32, ¬ s.Covers x y n cx cy) → t.reg VF = 0 ∧ u.reg VF = 0)

/-! ### Keypad and delay timer (45_keypad_timer.md) -/

/-- SKP skips when the named key is pressed and SKNP when it is not, for a register of 0 to 15;
above 15 both raise KeyIndexOutOfRange and write nothing else (the fault is the spec's decision
D15; log entry 12). -/
def Obligations.KeyTestsSkip : Prop :=
  ∀ (s : State) (x : Nibble),
    ((s.reg x).toNat ≤ 15 →
      (∃ t, exec (.skp x) s = .next t
        ∧ t.pc.toNat = (if s.keys.getLsbD (s.reg x).toNat = true then (s.pc.toNat + 2) % 65536
            else s.pc.toNat)
        ∧ s.SameBut t [.pc])
      ∧ (∃ t, exec (.sknp x) s = .next t
        ∧ t.pc.toNat = (if s.keys.getLsbD (s.reg x).toNat = false then (s.pc.toNat + 2) % 65536
            else s.pc.toNat)
        ∧ s.SameBut t [.pc]))
    ∧ (15 < (s.reg x).toNat → ∀ i ∈ [Instr.skp x, Instr.sknp x],
        ∃ t, exec i s = .next t ∧ (∃ r, t.flt = some r ∧ r.code = .keyIndexOutOfRange)
          ∧ s.SameBut t [.flt, .dirty])

/-- Fx07 copies the delay timer to `V[x]`, Fx15 copies `V[x]` to the delay timer;
nothing else changes. -/
def Obligations.DelayTimerTransfers : Prop :=
  ∀ (s : State) (x : Nibble),
    (∃ t, exec (.ldVxDt x) s = .next t ∧ t.reg x = s.dt ∧ s.SameRegsBut t [x]
      ∧ s.SameBut t [.regs])
    ∧ (∃ t, exec (.ldDtVx x) s = .next t ∧ t.dt = s.reg x ∧ s.SameBut t [.dt])

/-- LD Vx, K with no key pressed takes `pc` back to the instruction and changes nothing else; with
a key pressed `V[x]` is the number of a pressed key, whichever the machine picks. -/
def Obligations.KeyWaitStallsOrReports : Prop :=
  ∀ (s : State) (x : Nibble),
    (s.keys = 0 → ∃ t, exec (.ldVxK x) s = .next t ∧ t.pc = s.pc - 2 ∧ s.SameBut t [.pc])
    ∧ (s.keys ≠ 0 → ∃ t, exec (.ldVxK x) s = .next t ∧ (t.reg x).toNat < 16
      ∧ s.keys.getLsbD (t.reg x).toNat = true ∧ s.SameRegsBut t [x] ∧ s.SameBut t [.regs])

/-- Of several pressed keys LD Vx, K reports the lowest: the spec's decision (D16; log entry 13),
not the source's. -/
def Obligations.KeyWaitReportsLowestKey : Prop :=
  ∀ (s t : State) (x : Nibble), s.keys ≠ 0 → exec (.ldVxK x) s = .next t →
    ∀ k < (t.reg x).toNat, s.keys.getLsbD k = false

/-! ### Power-on, reset, load (10_state.md R45, 70_reset_and_hazards.md) -/

/-- The state right after power-on with the default start address, nothing loaded. The values of
the timers, the display, the stack, the latch, the keys and `dirty` are the spec's decision D23
(log entry 16), the start address is the default of a parameter (log entry 1). -/
def Obligations.ResetValues : Prop :=
  (∀ x, State.reset.reg x = 0) ∧ State.reset.pc = 0x200 ∧ State.reset.i = 0
    ∧ State.reset.sp.val = 0 ∧ (∀ k (h : k < 16), State.reset.stack[k] = 0)
    ∧ State.reset.dt = 0 ∧ State.reset.st = 0 ∧ State.reset.disp = Display.blank
    ∧ State.reset.flt = none
    ∧ State.reset.dirty = false ∧ State.reset.keys = 0
    ∧ ∀ a, 0x50 ≤ a → State.reset.mem.read a = 0

/-- Power-on under any legal configuration, whatever the state before: FONT at 0x000 to 0x04F, zero from there on, `pc` at
START_ADDR, and every other piece as at reset; memory is canonical. -/
def Obligations.PowerOnMemoryIsFontThenZero : Prop :=
  (∀ (c : Config) (s : State), c.wf = true →
    ∃ t, hostOp c .powerOn s = .next t
      ∧ Memory.wf t.mem = true
      ∧ (∀ a < 0x50, t.mem.read a = c.font.getD a 0)
      ∧ (∀ a, 0x50 ≤ a → t.mem.read a = 0)
      ∧ t.pc = c.startAddr
      ∧ State.reset.SameBut t [.mem, .pc])
    ∧ ∀ s : State, hostOp defaultConfig .powerOn s = .next State.reset

/-- Warm reset: V, I and `sp` zero, `pc` at START_ADDR, the latch clear, `dirty` 0; memory, display,
timers, stack slots and keys keep their values (the last part is the spec's decision D24; log
entry 17). -/
def Obligations.WarmResetRestoresAndKeeps : Prop :=
  ∀ (c : Config) (s : State), c.wf = true →
    ∃ t, hostOp c (.reset false) s = .next t
      ∧ (∀ z, t.reg z = 0) ∧ t.pc = c.startAddr ∧ t.i = 0 ∧ t.sp.val = 0 ∧ t.flt = none
      ∧ t.dirty = false ∧ s.SameBut t [.regs, .pc, .i, .sp, .flt, .dirty, .host]

/-- Full reset: a warm reset that also zeroes START_ADDR to 0xFFF and spares every byte below it
(that START_ADDR itself is zeroed is the spec's decision D25; log entry 18). -/
def Obligations.FullResetClearsProgram : Prop :=
  ∀ (c : Config) (s : State), c.wf = true → Memory.wf s.mem = true →
    ∃ t, hostOp c (.reset true) s = .next t
      ∧ (∀ z, t.reg z = 0) ∧ t.pc = c.startAddr ∧ t.i = 0 ∧ t.sp.val = 0 ∧ t.flt = none
      ∧ t.dirty = false ∧ s.SameBut t [.regs, .pc, .i, .sp, .flt, .dirty, .mem, .host]
      ∧ (∀ a < c.startAddr.toNat, t.mem.read a = s.mem.read a)
      ∧ (∀ a < 0x1000, c.startAddr.toNat ≤ a → t.mem.read a = 0)
      ∧ Memory.wf t.mem = true

/-- Load: before the first tick an image that fits stands verbatim from START_ADDR upward and
nothing else changes; one that passes 0x1000 is rejected; during a run a load has no meaning (the
spec's decision D30; log entry 6). -/
def Obligations.LoadPlacesProgram : Prop :=
  ∀ (c : Config) (s : State) (image : List Byte), c.wf = true →
    (s.ticked = false → c.startAddr.toNat + image.length ≤ 0x1000 →
      ∃ t, hostOp c (.load image) s = .next t
        ∧ (∀ k < image.length, t.mem.read (c.startAddr.toNat + k) = image.getD k 0)
        ∧ s.SameMemBut t (fun a => c.startAddr.toNat ≤ a ∧ a < c.startAddr.toNat + image.length)
        ∧ s.SameBut t [.mem] ∧ (Memory.wf s.mem = true → Memory.wf t.mem = true))
    ∧ (0x1000 < c.startAddr.toNat + image.length → hostOp c (.load image) s = .fault .romTooLarge)
    ∧ (s.ticked = true → c.startAddr.toNat + image.length ≤ 0x1000 →
      hostOp c (.load image) s = .refused .loadDuringRun)

/-- Every illegal configuration is refused by name, at power-on and at every other operation of
the host: an odd start address, one outside 0x050 to 0xFFE, a font that has not 80 bytes. The
range is the spec's decision D2 (log entry 1). -/
def Obligations.IllegalConfigurationIsRefused : Prop :=
  ∀ (c : Config) (op : HostOp) (s : State),
    (c.startAddr.toNat % 2 = 1 ∨ c.startAddr.toNat < 0x050 ∨ 0xFFE < c.startAddr.toNat
      ∨ c.font.length ≠ 80) → hostOp c op s = .refused .illegalConfig
end

