-- ==== Sys2Proof/Laws/Decode.lean ====
section
/-!
SUPPORT. The bits and fields of a word in each format, and the bytes of a word.
-/

namespace Sys2Proof

/-! ### Bits of each format (30_encoding.md R72, R73) -/

theorem getLsbD_formatA (op : Nibble) (nnn : Addr) (k : Nat) :
    (formatA op nnn).getLsbD k = if k < 12 then nnn.getLsbD k else op.getLsbD (k - 12) := by
  exact BitVec.getLsbD_append

theorem getLsbD_formatX (op x : Nibble) (fn : Byte) (k : Nat) :
    (formatX op x fn).getLsbD k
      = if k < 8 then fn.getLsbD k else if k < 12 then x.getLsbD (k - 8) else op.getLsbD (k - 12) := by
  have h : (formatX op x fn).getLsbD k
      = if k < 8 then fn.getLsbD k else (op ++ x).getLsbD (k - 8) := BitVec.getLsbD_append
  rw [h, BitVec.getLsbD_append]
  by_cases h8 : k < 8
  · simp [h8]
  · by_cases h12 : k < 12
    · simp [h8, h12, show k - 8 < 4 by omega]
    · simp [h8, h12, show ¬ k - 8 < 4 by omega, show k - 8 - 4 = k - 12 by omega]

theorem getLsbD_formatI (op x : Nibble) (kk : Byte) (k : Nat) :
    (formatI op x kk).getLsbD k
      = if k < 8 then kk.getLsbD k else if k < 12 then x.getLsbD (k - 8) else op.getLsbD (k - 12) :=
  getLsbD_formatX op x kk k

/-- Format R is format I with the two low nibbles as the byte. -/
theorem formatR_eq_formatI (op x y n : Nibble) : formatR op x y n = formatI op x (y ++ n) := by
  apply BitVec.eq_of_getLsbD_eq
  intro k _
  have h1 : (formatR op x y n).getLsbD k
      = if k < 4 then n.getLsbD k else (op ++ x ++ y).getLsbD (k - 4) := BitVec.getLsbD_append
  rw [h1, getLsbD_formatI, BitVec.getLsbD_append, BitVec.getLsbD_append, BitVec.getLsbD_append]
  by_cases h4 : k < 4
  · simp [h4, show k < 8 by omega]
  · by_cases h8 : k < 8
    · simp [h4, h8, show k - 4 < 4 by omega]
    · by_cases h12 : k < 12
      · simp [h4, h8, h12, show ¬ k - 4 < 4 by omega, show k - 4 - 4 = k - 8 by omega,
          show k - 8 < 4 by omega]
      · simp [h4, h8, h12, show ¬ k - 4 < 4 by omega, show ¬ k - 4 - 4 < 4 by omega,
          show k - 4 - 4 - 4 = k - 12 by omega]

/-! ### Fields of each format -/

@[simp] theorem fieldOp_formatA (op : Nibble) (nnn : Addr) : fieldOp (formatA op nnn) = op := by
  apply BitVec.eq_of_getLsbD_eq; intro k hk
  simp [fieldOp, getLsbD_formatA, hk, BitVec.getLsbD_eq_getElem]

@[simp] theorem fieldNnn_formatA (op : Nibble) (nnn : Addr) : fieldNnn (formatA op nnn) = nnn := by
  apply BitVec.eq_of_getLsbD_eq; intro k hk
  simp [fieldNnn, getLsbD_formatA, hk, BitVec.getLsbD_eq_getElem]

@[simp] theorem fieldOp_formatI (op x : Nibble) (kk : Byte) : fieldOp (formatI op x kk) = op := by
  apply BitVec.eq_of_getLsbD_eq; intro k hk
  simp [fieldOp, getLsbD_formatI, hk, BitVec.getLsbD_eq_getElem, show ¬ 12 + k < 8 by omega]

@[simp] theorem fieldX_formatI (op x : Nibble) (kk : Byte) : fieldX (formatI op x kk) = x := by
  apply BitVec.eq_of_getLsbD_eq; intro k hk
  simp [fieldX, getLsbD_formatI, hk, BitVec.getLsbD_eq_getElem, show 8 + k < 12 by omega]

@[simp] theorem fieldKk_formatI (op x : Nibble) (kk : Byte) : fieldKk (formatI op x kk) = kk := by
  apply BitVec.eq_of_getLsbD_eq; intro k hk
  simp [fieldKk, getLsbD_formatI, hk, BitVec.getLsbD_eq_getElem]

@[simp] theorem fieldOp_formatX (op x : Nibble) (fn : Byte) : fieldOp (formatX op x fn) = op :=
  fieldOp_formatI op x fn

@[simp] theorem fieldX_formatX (op x : Nibble) (fn : Byte) : fieldX (formatX op x fn) = x :=
  fieldX_formatI op x fn

@[simp] theorem fieldKk_formatX (op x : Nibble) (fn : Byte) : fieldKk (formatX op x fn) = fn :=
  fieldKk_formatI op x fn

@[simp] theorem fieldOp_formatR (op x y n : Nibble) : fieldOp (formatR op x y n) = op := by
  rw [formatR_eq_formatI]; exact fieldOp_formatI ..

@[simp] theorem fieldX_formatR (op x y n : Nibble) : fieldX (formatR op x y n) = x := by
  rw [formatR_eq_formatI]; exact fieldX_formatI ..

@[simp] theorem fieldY_formatR (op x y n : Nibble) : fieldY (formatR op x y n) = y := by
  rw [formatR_eq_formatI]
  apply BitVec.eq_of_getLsbD_eq; intro k hk
  have h : (y ++ n).getLsbD (4 + k) = if 4 + k < 4 then n.getLsbD (4 + k) else y.getLsbD (4 + k - 4) :=
    BitVec.getLsbD_append
  simp only [fieldY, BitVec.getLsbD_extractLsb', getLsbD_formatI, hk, decide_true, Bool.true_and,
    show 4 + k < 8 by omega, if_true]
  rw [h, if_neg (by omega), show 4 + k - 4 = k by omega]

@[simp] theorem fieldN_formatR (op x y n : Nibble) : fieldN (formatR op x y n) = n := by
  rw [formatR_eq_formatI]
  apply BitVec.eq_of_getLsbD_eq; intro k hk
  have h : (y ++ n).getLsbD (0 + k) = if 0 + k < 4 then n.getLsbD (0 + k) else y.getLsbD (0 + k - 4) :=
    BitVec.getLsbD_append
  simp only [fieldN, BitVec.getLsbD_extractLsb', getLsbD_formatI, hk, decide_true, Bool.true_and,
    show 0 + k < 8 by omega, if_true]
  rw [h, if_pos (by omega), Nat.zero_add]

/-! ### A word is its fields -/

theorem formatA_fields (w : Word) : formatA (fieldOp w) (fieldNnn w) = w := by
  apply BitVec.eq_of_getLsbD_eq; intro k hk
  rw [getLsbD_formatA]
  by_cases h : k < 12
  · simp [h, fieldNnn]
  · simp [h, fieldOp, show k - 12 < 4 by omega, show 12 + (k - 12) = k by omega]

theorem formatI_fields (w : Word) : formatI (fieldOp w) (fieldX w) (fieldKk w) = w := by
  apply BitVec.eq_of_getLsbD_eq; intro k hk
  rw [getLsbD_formatI]
  by_cases h8 : k < 8
  · simp [h8, fieldKk]
  · by_cases h12 : k < 12
    · simp [h8, h12, fieldX, show k - 8 < 4 by omega, show 8 + (k - 8) = k by omega]
    · simp [h8, h12, fieldOp, show k - 12 < 4 by omega, show 12 + (k - 12) = k by omega]

theorem fieldKk_eq_append (w : Word) : fieldKk w = fieldY w ++ fieldN w := by
  apply BitVec.eq_of_getLsbD_eq; intro k hk
  have h : (fieldY w ++ fieldN w).getLsbD k
      = if k < 4 then (fieldN w).getLsbD k else (fieldY w).getLsbD (k - 4) := BitVec.getLsbD_append
  rw [h]
  by_cases h4 : k < 4
  · simp [h4, fieldKk, fieldN, hk]
  · simp [h4, fieldKk, fieldY, hk, show k - 4 < 4 by omega, show 4 + (k - 4) = k by omega]

theorem formatR_fields (w : Word) : formatR (fieldOp w) (fieldX w) (fieldY w) (fieldN w) = w := by
  rw [formatR_eq_formatI, ← fieldKk_eq_append]; exact formatI_fields w

/-! ### Bytes of a word (20_memory.md R51) -/

@[simp] theorem wordOfBytes_bytes (w : Word) : wordOfBytes (highByte w) (lowByte w) = w := by
  apply BitVec.eq_of_getLsbD_eq; intro k hk
  have h : (wordOfBytes (highByte w) (lowByte w)).getLsbD k
      = if k < 8 then (lowByte w).getLsbD k else (highByte w).getLsbD (k - 8) :=
    BitVec.getLsbD_append
  rw [h]
  by_cases h8 : k < 8
  · simp [h8, lowByte]
  · simp [h8, highByte, show k - 8 < 8 by omega, show 8 + (k - 8) = k by omega]

end Sys2Proof
end

