-- ==== Sys2Proof/Laws/Memory.lean ====
section
/-!
SUPPORT. The laws of memory: read after write, and that every operation keeps the canonical form.
-/

namespace Sys2Proof.Machine

@[simp] theorem Memory.read_nil (a : Nat) : Memory.read [] a = Memory.unlisted a := rfl

@[simp] theorem Memory.read_cons (b : Nat) (u : Byte) (m : Memory) (a : Nat) :
    Memory.read ((b, u) :: m) a = if a = b then u else Memory.read m a := rfl

/-- Above the font an unlisted byte is zero. -/
theorem Memory.unlisted_above_font (a : Nat) (h : 80 ≤ a) : Memory.unlisted a = 0 := by
  unfold Memory.unlisted
  rw [List.getD_eq_default]
  exact h

theorem Memory.read_insert (m : Memory) (a b : Nat) (u : Byte) :
    (Memory.insert m a u).read b = if b = a then u else m.read b := by
  induction m with
  | nil => rfl
  | cons c m ih =>
    obtain ⟨k, w⟩ := c
    simp only [Memory.insert]
    split
    · rfl
    · split
      · subst_vars; simp only [Memory.read_cons]; split <;> rfl
      · simp only [Memory.read_cons, ih]; split <;> split <;> simp_all

theorem Memory.read_filter (m : Memory) (keep : Nat → Bool) (b : Nat) :
    Memory.read (m.filter fun c => keep c.1) b = if keep b then m.read b else Memory.unlisted b := by
  induction m with
  | nil => simp
  | cons c m ih =>
    obtain ⟨k, w⟩ := c
    by_cases hk : keep k <;> by_cases hb : b = k <;> simp_all

theorem Memory.read_erase (m : Memory) (a b : Nat) :
    (Memory.erase m a).read b = if b = a then Memory.unlisted a else m.read b := by
  have h := Memory.read_filter m (fun k => decide (k ≠ a)) b
  by_cases hb : b = a <;> simp_all [Memory.erase]

/-- A read after a write: the written byte at its address, every other byte as before
(20_memory.md R63 (c)). -/
@[simp] theorem Memory.read_write (m : Memory) (a b : Nat) (u : Byte) :
    (Memory.write m a u).read b = if b = a then u else m.read b := by
  unfold Memory.write
  split
  · subst_vars; exact Memory.read_erase m a b
  · exact Memory.read_insert m a b u

/-- Bytes stored one after the other from `a` upward. -/
theorem Memory.read_writeBytes (us : List Byte) (m : Memory) (a b : Nat) :
    (Memory.writeBytes m a us).read b
      = if a ≤ b ∧ b < a + us.length then us.getD (b - a) 0 else m.read b := by
  induction us generalizing m a with
  | nil => simp [Memory.writeBytes, show ¬ (a ≤ b ∧ b < a) by omega]
  | cons u us ih =>
    simp only [Memory.writeBytes, ih, Memory.read_write, List.length_cons]
    rcases Nat.lt_trichotomy b a with h | h | h
    · rw [if_neg (by omega), if_neg (by omega), if_neg (by omega)]
    · subst h; simp
    · obtain ⟨d, rfl⟩ := Nat.exists_eq_add_of_lt h
      have e1 : a + d + 1 - (a + 1) = d := by omega
      have e2 : a + d + 1 - a = d + 1 := by omega
      simp only [e1, e2, List.getD_cons_succ]
      by_cases hl : d < us.length
      · rw [if_pos (by omega), if_pos (by omega)]
      · rw [if_neg (by omega), if_neg (by omega), if_neg (by omega)]

/-! ### The canonical form -/

/-- The canonical form of a list with a first cell, as propositions. -/
theorem Memory.wf_cons (a : Nat) (u : Byte) (m : Memory) :
    Memory.wf ((a, u) :: m) = true ↔
      a < 0x1000 ∧ u ≠ Memory.unlisted a ∧ (∀ c ∈ m, a < c.1) ∧ Memory.wf m = true := by
  simp [Memory.wf, and_assoc]

theorem Memory.mem_insert (m : Memory) (a : Nat) (u : Byte) (c : Host.Cell)
    (h : c ∈ Memory.insert m a u) : c = (a, u) ∨ c ∈ m := by
  induction m with
  | nil => simpa [Memory.insert] using h
  | cons d m ih =>
    obtain ⟨k, w⟩ := d
    simp only [Memory.insert] at h
    split at h
    · simpa using h
    · split at h
      · rcases List.mem_cons.1 h with h | h
        · exact .inl h
        · exact .inr (List.mem_cons_of_mem _ h)
      · rcases List.mem_cons.1 h with h | h
        · exact .inr (h ▸ List.mem_cons_self ..)
        · exact (ih h).imp id (List.mem_cons_of_mem _)

theorem Memory.wf_insert (m : Memory) (a : Nat) (u : Byte) (hm : Memory.wf m = true)
    (ha : a < 0x1000) (hu : u ≠ Memory.unlisted a) : Memory.wf (Memory.insert m a u) = true := by
  induction m with
  | nil => exact (Memory.wf_cons a u []).2 ⟨ha, hu, by simp, rfl⟩
  | cons d m ih =>
    obtain ⟨k, w⟩ := d
    have hd := (Memory.wf_cons k w m).1 hm
    obtain ⟨hk, hw, hlt, hwf⟩ := hd
    simp only [Memory.insert]
    split
    · rename_i h
      refine (Memory.wf_cons _ _ _).2 ⟨ha, hu, ?_, hm⟩
      intro c hc
      rcases List.mem_cons.1 hc with rfl | hc
      · exact h
      · exact h.trans (hlt c hc)
    · split
      · subst_vars; exact (Memory.wf_cons _ _ _).2 ⟨ha, hu, hlt, hwf⟩
      · refine (Memory.wf_cons _ _ _).2 ⟨hk, hw, ?_, ih hwf⟩
        intro c hc
        rcases Memory.mem_insert m a u c hc with rfl | hc
        · change k < a; omega
        · exact hlt c hc

theorem Memory.wf_filter (m : Memory) (keep : Host.Cell → Bool) (hm : Memory.wf m = true) :
    Memory.wf (m.filter keep) = true := by
  induction m with
  | nil => rfl
  | cons d m ih =>
    obtain ⟨k, w⟩ := d
    obtain ⟨hk, hw, hlt, hwf⟩ := (Memory.wf_cons k w m).1 hm
    rw [List.filter_cons]
    split
    · exact (Memory.wf_cons _ _ _).2
        ⟨hk, hw, fun c hc => hlt c (List.mem_filter.1 hc).1, ih hwf⟩
    · exact ih hwf

/-- A write keeps the canonical form. -/
theorem Memory.wf_write (m : Memory) (a : Nat) (u : Byte) (hm : Memory.wf m = true)
    (ha : a < 0x1000) : Memory.wf (Memory.write m a u) = true := by
  unfold Memory.write
  split
  · exact Memory.wf_filter m _ hm
  · rename_i h; exact Memory.wf_insert m a u hm ha h

/-- Storing bytes inside memory keeps the canonical form. -/
theorem Memory.wf_writeBytes (us : List Byte) (m : Memory) (a : Nat) (hm : Memory.wf m = true)
    (ha : a + us.length ≤ 0x1000) : Memory.wf (Memory.writeBytes m a us) = true := by
  induction us generalizing m a with
  | nil => exact hm
  | cons u us ih =>
    simp only [List.length_cons] at ha
    exact ih _ _ (Memory.wf_write m a u hm (by omega)) (by omega)

/-- Zeroing from an address upward keeps the canonical form. -/
theorem Memory.wf_zeroFrom (m : Memory) (a : Nat) (hm : Memory.wf m = true) :
    Memory.wf (Memory.zeroFrom m a) = true := Memory.wf_filter m _ hm

/-- What zeroing from an address above the font leaves. -/
theorem Memory.read_zeroFrom (m : Memory) (a b : Nat) (ha : 80 ≤ a) :
    (Memory.zeroFrom m a).read b = if b < a then m.read b else 0 := by
  have h := Memory.read_filter m (fun k => decide (k < a)) b
  by_cases hb : b < a
  · simpa [Memory.zeroFrom, hb] using h
  · rw [if_neg hb]
    have hz := Memory.unlisted_above_font b (by omega)
    simpa [Memory.zeroFrom, hb, hz] using h

end Sys2Proof.Machine
end

