-- ==== Sys2Proof/Laws/State.lean ====
section
/-!
SUPPORT. One lemma per field of State per update, so that no proof unfolds a record update.
-/

namespace Sys2Proof.Machine

variable (s : State)

/-! ### setReg -/

@[simp] theorem State.v_setReg (x : Nibble) (u : Byte) : (s.setReg x u).v = s.v.set x.toNat u x.isLt := rfl
@[simp] theorem State.pc_setReg (x : Nibble) (u : Byte) : (s.setReg x u).pc = s.pc := rfl
@[simp] theorem State.i_setReg (x : Nibble) (u : Byte) : (s.setReg x u).i = s.i := rfl
@[simp] theorem State.sp_setReg (x : Nibble) (u : Byte) : (s.setReg x u).sp = s.sp := rfl
@[simp] theorem State.stack_setReg (x : Nibble) (u : Byte) : (s.setReg x u).stack = s.stack := rfl
@[simp] theorem State.dt_setReg (x : Nibble) (u : Byte) : (s.setReg x u).dt = s.dt := rfl
@[simp] theorem State.st_setReg (x : Nibble) (u : Byte) : (s.setReg x u).st = s.st := rfl
@[simp] theorem State.mem_setReg (x : Nibble) (u : Byte) : (s.setReg x u).mem = s.mem := rfl
@[simp] theorem State.disp_setReg (x : Nibble) (u : Byte) : (s.setReg x u).disp = s.disp := rfl
@[simp] theorem State.flt_setReg (x : Nibble) (u : Byte) : (s.setReg x u).flt = s.flt := rfl
@[simp] theorem State.dirty_setReg (x : Nibble) (u : Byte) : (s.setReg x u).dirty = s.dirty := rfl
@[simp] theorem State.keys_setReg (x : Nibble) (u : Byte) : (s.setReg x u).keys = s.keys := rfl
@[simp] theorem State.rnd_setReg (x : Nibble) (u : Byte) : (s.setReg x u).rnd = s.rnd := rfl
@[simp] theorem State.inputs_setReg (x : Nibble) (u : Byte) : (s.setReg x u).inputs = s.inputs := rfl
@[simp] theorem State.draws_setReg (x : Nibble) (u : Byte) : (s.setReg x u).draws = s.draws := rfl
@[simp] theorem State.ticked_setReg (x : Nibble) (u : Byte) : (s.setReg x u).ticked = s.ticked := rfl

/-! ### setPc -/

@[simp] theorem State.v_setPc (a : Word) : (s.setPc a).v = s.v := rfl
@[simp] theorem State.pc_setPc (a : Word) : (s.setPc a).pc = a := rfl
@[simp] theorem State.i_setPc (a : Word) : (s.setPc a).i = s.i := rfl
@[simp] theorem State.sp_setPc (a : Word) : (s.setPc a).sp = s.sp := rfl
@[simp] theorem State.stack_setPc (a : Word) : (s.setPc a).stack = s.stack := rfl
@[simp] theorem State.dt_setPc (a : Word) : (s.setPc a).dt = s.dt := rfl
@[simp] theorem State.st_setPc (a : Word) : (s.setPc a).st = s.st := rfl
@[simp] theorem State.mem_setPc (a : Word) : (s.setPc a).mem = s.mem := rfl
@[simp] theorem State.disp_setPc (a : Word) : (s.setPc a).disp = s.disp := rfl
@[simp] theorem State.flt_setPc (a : Word) : (s.setPc a).flt = s.flt := rfl
@[simp] theorem State.dirty_setPc (a : Word) : (s.setPc a).dirty = s.dirty := rfl
@[simp] theorem State.keys_setPc (a : Word) : (s.setPc a).keys = s.keys := rfl
@[simp] theorem State.rnd_setPc (a : Word) : (s.setPc a).rnd = s.rnd := rfl
@[simp] theorem State.inputs_setPc (a : Word) : (s.setPc a).inputs = s.inputs := rfl
@[simp] theorem State.draws_setPc (a : Word) : (s.setPc a).draws = s.draws := rfl
@[simp] theorem State.ticked_setPc (a : Word) : (s.setPc a).ticked = s.ticked := rfl

/-! ### setI -/

@[simp] theorem State.v_setI (a : Word) : (s.setI a).v = s.v := rfl
@[simp] theorem State.pc_setI (a : Word) : (s.setI a).pc = s.pc := rfl
@[simp] theorem State.i_setI (a : Word) : (s.setI a).i = a := rfl
@[simp] theorem State.sp_setI (a : Word) : (s.setI a).sp = s.sp := rfl
@[simp] theorem State.stack_setI (a : Word) : (s.setI a).stack = s.stack := rfl
@[simp] theorem State.dt_setI (a : Word) : (s.setI a).dt = s.dt := rfl
@[simp] theorem State.st_setI (a : Word) : (s.setI a).st = s.st := rfl
@[simp] theorem State.mem_setI (a : Word) : (s.setI a).mem = s.mem := rfl
@[simp] theorem State.disp_setI (a : Word) : (s.setI a).disp = s.disp := rfl
@[simp] theorem State.flt_setI (a : Word) : (s.setI a).flt = s.flt := rfl
@[simp] theorem State.dirty_setI (a : Word) : (s.setI a).dirty = s.dirty := rfl
@[simp] theorem State.keys_setI (a : Word) : (s.setI a).keys = s.keys := rfl
@[simp] theorem State.rnd_setI (a : Word) : (s.setI a).rnd = s.rnd := rfl
@[simp] theorem State.inputs_setI (a : Word) : (s.setI a).inputs = s.inputs := rfl
@[simp] theorem State.draws_setI (a : Word) : (s.setI a).draws = s.draws := rfl
@[simp] theorem State.ticked_setI (a : Word) : (s.setI a).ticked = s.ticked := rfl

/-! ### setDt -/

@[simp] theorem State.v_setDt (u : Byte) : (s.setDt u).v = s.v := rfl
@[simp] theorem State.pc_setDt (u : Byte) : (s.setDt u).pc = s.pc := rfl
@[simp] theorem State.i_setDt (u : Byte) : (s.setDt u).i = s.i := rfl
@[simp] theorem State.sp_setDt (u : Byte) : (s.setDt u).sp = s.sp := rfl
@[simp] theorem State.stack_setDt (u : Byte) : (s.setDt u).stack = s.stack := rfl
@[simp] theorem State.dt_setDt (u : Byte) : (s.setDt u).dt = u := rfl
@[simp] theorem State.st_setDt (u : Byte) : (s.setDt u).st = s.st := rfl
@[simp] theorem State.mem_setDt (u : Byte) : (s.setDt u).mem = s.mem := rfl
@[simp] theorem State.disp_setDt (u : Byte) : (s.setDt u).disp = s.disp := rfl
@[simp] theorem State.flt_setDt (u : Byte) : (s.setDt u).flt = s.flt := rfl
@[simp] theorem State.dirty_setDt (u : Byte) : (s.setDt u).dirty = s.dirty := rfl
@[simp] theorem State.keys_setDt (u : Byte) : (s.setDt u).keys = s.keys := rfl
@[simp] theorem State.rnd_setDt (u : Byte) : (s.setDt u).rnd = s.rnd := rfl
@[simp] theorem State.inputs_setDt (u : Byte) : (s.setDt u).inputs = s.inputs := rfl
@[simp] theorem State.draws_setDt (u : Byte) : (s.setDt u).draws = s.draws := rfl
@[simp] theorem State.ticked_setDt (u : Byte) : (s.setDt u).ticked = s.ticked := rfl

/-! ### setMem -/

@[simp] theorem State.v_setMem (m : Memory) : (s.setMem m).v = s.v := rfl
@[simp] theorem State.pc_setMem (m : Memory) : (s.setMem m).pc = s.pc := rfl
@[simp] theorem State.i_setMem (m : Memory) : (s.setMem m).i = s.i := rfl
@[simp] theorem State.sp_setMem (m : Memory) : (s.setMem m).sp = s.sp := rfl
@[simp] theorem State.stack_setMem (m : Memory) : (s.setMem m).stack = s.stack := rfl
@[simp] theorem State.dt_setMem (m : Memory) : (s.setMem m).dt = s.dt := rfl
@[simp] theorem State.st_setMem (m : Memory) : (s.setMem m).st = s.st := rfl
@[simp] theorem State.mem_setMem (m : Memory) : (s.setMem m).mem = m := rfl
@[simp] theorem State.disp_setMem (m : Memory) : (s.setMem m).disp = s.disp := rfl
@[simp] theorem State.flt_setMem (m : Memory) : (s.setMem m).flt = s.flt := rfl
@[simp] theorem State.dirty_setMem (m : Memory) : (s.setMem m).dirty = s.dirty := rfl
@[simp] theorem State.keys_setMem (m : Memory) : (s.setMem m).keys = s.keys := rfl
@[simp] theorem State.rnd_setMem (m : Memory) : (s.setMem m).rnd = s.rnd := rfl
@[simp] theorem State.inputs_setMem (m : Memory) : (s.setMem m).inputs = s.inputs := rfl
@[simp] theorem State.draws_setMem (m : Memory) : (s.setMem m).draws = s.draws := rfl
@[simp] theorem State.ticked_setMem (m : Memory) : (s.setMem m).ticked = s.ticked := rfl

/-! ### setDisp -/

@[simp] theorem State.v_setDisp (d : Display) : (s.setDisp d).v = s.v := rfl
@[simp] theorem State.pc_setDisp (d : Display) : (s.setDisp d).pc = s.pc := rfl
@[simp] theorem State.i_setDisp (d : Display) : (s.setDisp d).i = s.i := rfl
@[simp] theorem State.sp_setDisp (d : Display) : (s.setDisp d).sp = s.sp := rfl
@[simp] theorem State.stack_setDisp (d : Display) : (s.setDisp d).stack = s.stack := rfl
@[simp] theorem State.dt_setDisp (d : Display) : (s.setDisp d).dt = s.dt := rfl
@[simp] theorem State.st_setDisp (d : Display) : (s.setDisp d).st = s.st := rfl
@[simp] theorem State.mem_setDisp (d : Display) : (s.setDisp d).mem = s.mem := rfl
@[simp] theorem State.disp_setDisp (d : Display) : (s.setDisp d).disp = d := rfl
@[simp] theorem State.flt_setDisp (d : Display) : (s.setDisp d).flt = s.flt := rfl
@[simp] theorem State.dirty_setDisp (d : Display) : (s.setDisp d).dirty = true := rfl
@[simp] theorem State.keys_setDisp (d : Display) : (s.setDisp d).keys = s.keys := rfl
@[simp] theorem State.rnd_setDisp (d : Display) : (s.setDisp d).rnd = s.rnd := rfl
@[simp] theorem State.inputs_setDisp (d : Display) : (s.setDisp d).inputs = s.inputs := rfl
@[simp] theorem State.draws_setDisp (d : Display) : (s.setDisp d).draws = s.draws := rfl
@[simp] theorem State.ticked_setDisp (d : Display) : (s.setDisp d).ticked = s.ticked := rfl

/-! ### push -/

@[simp] theorem State.v_push (u : Word) (h : s.sp.val < 16) : (s.push u h).v = s.v := rfl
@[simp] theorem State.pc_push (u : Word) (h : s.sp.val < 16) : (s.push u h).pc = s.pc := rfl
@[simp] theorem State.i_push (u : Word) (h : s.sp.val < 16) : (s.push u h).i = s.i := rfl
@[simp] theorem State.sp_push (u : Word) (h : s.sp.val < 16) : (s.push u h).sp = ⟨s.sp.val + 1, by omega⟩ := rfl
@[simp] theorem State.stack_push (u : Word) (h : s.sp.val < 16) : (s.push u h).stack = s.stack.set s.sp.val u := rfl
@[simp] theorem State.dt_push (u : Word) (h : s.sp.val < 16) : (s.push u h).dt = s.dt := rfl
@[simp] theorem State.st_push (u : Word) (h : s.sp.val < 16) : (s.push u h).st = s.st := rfl
@[simp] theorem State.mem_push (u : Word) (h : s.sp.val < 16) : (s.push u h).mem = s.mem := rfl
@[simp] theorem State.disp_push (u : Word) (h : s.sp.val < 16) : (s.push u h).disp = s.disp := rfl
@[simp] theorem State.flt_push (u : Word) (h : s.sp.val < 16) : (s.push u h).flt = s.flt := rfl
@[simp] theorem State.dirty_push (u : Word) (h : s.sp.val < 16) : (s.push u h).dirty = s.dirty := rfl
@[simp] theorem State.keys_push (u : Word) (h : s.sp.val < 16) : (s.push u h).keys = s.keys := rfl
@[simp] theorem State.rnd_push (u : Word) (h : s.sp.val < 16) : (s.push u h).rnd = s.rnd := rfl
@[simp] theorem State.inputs_push (u : Word) (h : s.sp.val < 16) : (s.push u h).inputs = s.inputs := rfl
@[simp] theorem State.draws_push (u : Word) (h : s.sp.val < 16) : (s.push u h).draws = s.draws := rfl
@[simp] theorem State.ticked_push (u : Word) (h : s.sp.val < 16) : (s.push u h).ticked = s.ticked := rfl

/-! ### pop -/

@[simp] theorem State.v_pop : s.pop.v = s.v := rfl
@[simp] theorem State.pc_pop : s.pop.pc = s.pc := rfl
@[simp] theorem State.i_pop : s.pop.i = s.i := rfl
@[simp] theorem State.sp_pop : s.pop.sp = ⟨s.sp.val - 1, by have := s.sp.isLt; omega⟩ := rfl
@[simp] theorem State.stack_pop : s.pop.stack = s.stack := rfl
@[simp] theorem State.dt_pop : s.pop.dt = s.dt := rfl
@[simp] theorem State.st_pop : s.pop.st = s.st := rfl
@[simp] theorem State.mem_pop : s.pop.mem = s.mem := rfl
@[simp] theorem State.disp_pop : s.pop.disp = s.disp := rfl
@[simp] theorem State.flt_pop : s.pop.flt = s.flt := rfl
@[simp] theorem State.dirty_pop : s.pop.dirty = s.dirty := rfl
@[simp] theorem State.keys_pop : s.pop.keys = s.keys := rfl
@[simp] theorem State.rnd_pop : s.pop.rnd = s.rnd := rfl
@[simp] theorem State.inputs_pop : s.pop.inputs = s.inputs := rfl
@[simp] theorem State.draws_pop : s.pop.draws = s.draws := rfl
@[simp] theorem State.ticked_pop : s.pop.ticked = s.ticked := rfl

/-! ### takeFault -/

@[simp] theorem State.v_takeFault (c : FaultCode) (a w : Word) : (s.takeFault c a w).v = s.v := rfl
@[simp] theorem State.pc_takeFault (c : FaultCode) (a w : Word) : (s.takeFault c a w).pc = s.pc := rfl
@[simp] theorem State.i_takeFault (c : FaultCode) (a w : Word) : (s.takeFault c a w).i = s.i := rfl
@[simp] theorem State.sp_takeFault (c : FaultCode) (a w : Word) : (s.takeFault c a w).sp = s.sp := rfl
@[simp] theorem State.stack_takeFault (c : FaultCode) (a w : Word) : (s.takeFault c a w).stack = s.stack := rfl
@[simp] theorem State.dt_takeFault (c : FaultCode) (a w : Word) : (s.takeFault c a w).dt = s.dt := rfl
@[simp] theorem State.st_takeFault (c : FaultCode) (a w : Word) : (s.takeFault c a w).st = s.st := rfl
@[simp] theorem State.mem_takeFault (c : FaultCode) (a w : Word) : (s.takeFault c a w).mem = s.mem := rfl
@[simp] theorem State.disp_takeFault (c : FaultCode) (a w : Word) : (s.takeFault c a w).disp = s.disp := rfl
@[simp] theorem State.flt_takeFault (c : FaultCode) (a w : Word) : (s.takeFault c a w).flt = some ⟨c, a, w⟩ := rfl
@[simp] theorem State.dirty_takeFault (c : FaultCode) (a w : Word) : (s.takeFault c a w).dirty = false := rfl
@[simp] theorem State.keys_takeFault (c : FaultCode) (a w : Word) : (s.takeFault c a w).keys = s.keys := rfl
@[simp] theorem State.rnd_takeFault (c : FaultCode) (a w : Word) : (s.takeFault c a w).rnd = s.rnd := rfl
@[simp] theorem State.inputs_takeFault (c : FaultCode) (a w : Word) : (s.takeFault c a w).inputs = s.inputs := rfl
@[simp] theorem State.draws_takeFault (c : FaultCode) (a w : Word) : (s.takeFault c a w).draws = s.draws := rfl
@[simp] theorem State.ticked_takeFault (c : FaultCode) (a w : Word) : (s.takeFault c a w).ticked = s.ticked := rfl

/-! ### raise -/

@[simp] theorem State.v_raise (c : FaultCode) (n : Instr) : (s.raise c n).v = s.v := rfl
@[simp] theorem State.pc_raise (c : FaultCode) (n : Instr) : (s.raise c n).pc = s.pc := rfl
@[simp] theorem State.i_raise (c : FaultCode) (n : Instr) : (s.raise c n).i = s.i := rfl
@[simp] theorem State.sp_raise (c : FaultCode) (n : Instr) : (s.raise c n).sp = s.sp := rfl
@[simp] theorem State.stack_raise (c : FaultCode) (n : Instr) : (s.raise c n).stack = s.stack := rfl
@[simp] theorem State.dt_raise (c : FaultCode) (n : Instr) : (s.raise c n).dt = s.dt := rfl
@[simp] theorem State.st_raise (c : FaultCode) (n : Instr) : (s.raise c n).st = s.st := rfl
@[simp] theorem State.mem_raise (c : FaultCode) (n : Instr) : (s.raise c n).mem = s.mem := rfl
@[simp] theorem State.disp_raise (c : FaultCode) (n : Instr) : (s.raise c n).disp = s.disp := rfl
@[simp] theorem State.flt_raise (c : FaultCode) (n : Instr) : (s.raise c n).flt = some ⟨c, s.pc0, encode n⟩ := rfl
@[simp] theorem State.dirty_raise (c : FaultCode) (n : Instr) : (s.raise c n).dirty = false := rfl
@[simp] theorem State.keys_raise (c : FaultCode) (n : Instr) : (s.raise c n).keys = s.keys := rfl
@[simp] theorem State.rnd_raise (c : FaultCode) (n : Instr) : (s.raise c n).rnd = s.rnd := rfl
@[simp] theorem State.inputs_raise (c : FaultCode) (n : Instr) : (s.raise c n).inputs = s.inputs := rfl
@[simp] theorem State.draws_raise (c : FaultCode) (n : Instr) : (s.raise c n).draws = s.draws := rfl
@[simp] theorem State.ticked_raise (c : FaultCode) (n : Instr) : (s.raise c n).ticked = s.ticked := rfl

/-! ### advance -/

@[simp] theorem State.v_advance : s.advance.v = s.v := rfl
@[simp] theorem State.pc_advance : s.advance.pc = s.pc + 2 := rfl
@[simp] theorem State.i_advance : s.advance.i = s.i := rfl
@[simp] theorem State.sp_advance : s.advance.sp = s.sp := rfl
@[simp] theorem State.stack_advance : s.advance.stack = s.stack := rfl
@[simp] theorem State.dt_advance : s.advance.dt = s.dt := rfl
@[simp] theorem State.st_advance : s.advance.st = s.st := rfl
@[simp] theorem State.mem_advance : s.advance.mem = s.mem := rfl
@[simp] theorem State.disp_advance : s.advance.disp = s.disp := rfl
@[simp] theorem State.flt_advance : s.advance.flt = s.flt := rfl
@[simp] theorem State.dirty_advance : s.advance.dirty = false := rfl
@[simp] theorem State.keys_advance : s.advance.keys = s.keys := rfl
@[simp] theorem State.rnd_advance : s.advance.rnd = s.rnd := rfl
@[simp] theorem State.inputs_advance : s.advance.inputs = s.inputs := rfl
@[simp] theorem State.draws_advance : s.advance.draws = s.draws := rfl
@[simp] theorem State.ticked_advance : s.advance.ticked = s.ticked := rfl

/-! ### halted -/

@[simp] theorem State.v_halted : s.halted.v = s.v := rfl
@[simp] theorem State.pc_halted : s.halted.pc = s.pc := rfl
@[simp] theorem State.i_halted : s.halted.i = s.i := rfl
@[simp] theorem State.sp_halted : s.halted.sp = s.sp := rfl
@[simp] theorem State.stack_halted : s.halted.stack = s.stack := rfl
@[simp] theorem State.dt_halted : s.halted.dt = s.dt := rfl
@[simp] theorem State.st_halted : s.halted.st = s.st := rfl
@[simp] theorem State.mem_halted : s.halted.mem = s.mem := rfl
@[simp] theorem State.disp_halted : s.halted.disp = s.disp := rfl
@[simp] theorem State.flt_halted : s.halted.flt = s.flt := rfl
@[simp] theorem State.dirty_halted : s.halted.dirty = false := rfl
@[simp] theorem State.keys_halted : s.halted.keys = s.keys := rfl
@[simp] theorem State.rnd_halted : s.halted.rnd = s.rnd := rfl
@[simp] theorem State.inputs_halted : s.halted.inputs = s.inputs := rfl
@[simp] theorem State.draws_halted : s.halted.draws = s.draws := rfl
@[simp] theorem State.ticked_halted : s.halted.ticked = s.ticked := rfl

/-! ### fetchFault -/

@[simp] theorem State.v_fetchFault : s.fetchFault.v = s.v := rfl
@[simp] theorem State.pc_fetchFault : s.fetchFault.pc = s.pc := rfl
@[simp] theorem State.i_fetchFault : s.fetchFault.i = s.i := rfl
@[simp] theorem State.sp_fetchFault : s.fetchFault.sp = s.sp := rfl
@[simp] theorem State.stack_fetchFault : s.fetchFault.stack = s.stack := rfl
@[simp] theorem State.dt_fetchFault : s.fetchFault.dt = s.dt := rfl
@[simp] theorem State.st_fetchFault : s.fetchFault.st = s.st := rfl
@[simp] theorem State.mem_fetchFault : s.fetchFault.mem = s.mem := rfl
@[simp] theorem State.disp_fetchFault : s.fetchFault.disp = s.disp := rfl
@[simp] theorem State.flt_fetchFault : s.fetchFault.flt = some ⟨.fetchOutOfRange, s.pc, 0⟩ := rfl
@[simp] theorem State.dirty_fetchFault : s.fetchFault.dirty = false := rfl
@[simp] theorem State.keys_fetchFault : s.fetchFault.keys = s.keys := rfl
@[simp] theorem State.rnd_fetchFault : s.fetchFault.rnd = s.rnd := rfl
@[simp] theorem State.inputs_fetchFault : s.fetchFault.inputs = s.inputs := rfl
@[simp] theorem State.draws_fetchFault : s.fetchFault.draws = s.draws := rfl
@[simp] theorem State.ticked_fetchFault : s.fetchFault.ticked = s.ticked := rfl

/-! ### unsupported -/

@[simp] theorem State.v_unsupported (w : Word) : (s.unsupported w).v = s.v := rfl
@[simp] theorem State.pc_unsupported (w : Word) : (s.unsupported w).pc = s.pc + 2 := rfl
@[simp] theorem State.i_unsupported (w : Word) : (s.unsupported w).i = s.i := rfl
@[simp] theorem State.sp_unsupported (w : Word) : (s.unsupported w).sp = s.sp := rfl
@[simp] theorem State.stack_unsupported (w : Word) : (s.unsupported w).stack = s.stack := rfl
@[simp] theorem State.dt_unsupported (w : Word) : (s.unsupported w).dt = s.dt := rfl
@[simp] theorem State.st_unsupported (w : Word) : (s.unsupported w).st = s.st := rfl
@[simp] theorem State.mem_unsupported (w : Word) : (s.unsupported w).mem = s.mem := rfl
@[simp] theorem State.disp_unsupported (w : Word) : (s.unsupported w).disp = s.disp := rfl
@[simp] theorem State.flt_unsupported (w : Word) : (s.unsupported w).flt = some ⟨.unsupportedOpcode, s.pc, w⟩ := rfl
@[simp] theorem State.dirty_unsupported (w : Word) : (s.unsupported w).dirty = false := rfl
@[simp] theorem State.keys_unsupported (w : Word) : (s.unsupported w).keys = s.keys := rfl
@[simp] theorem State.rnd_unsupported (w : Word) : (s.unsupported w).rnd = s.rnd := rfl
@[simp] theorem State.inputs_unsupported (w : Word) : (s.unsupported w).inputs = s.inputs := rfl
@[simp] theorem State.draws_unsupported (w : Word) : (s.unsupported w).draws = s.draws := rfl
@[simp] theorem State.ticked_unsupported (w : Word) : (s.unsupported w).ticked = s.ticked := rfl

/-! ### Reading a register -/

@[simp] theorem State.reg_setPc (a : Word) (z : Nibble) : (s.setPc a).reg z = s.reg z := rfl
@[simp] theorem State.reg_setI (a : Word) (z : Nibble) : (s.setI a).reg z = s.reg z := rfl
@[simp] theorem State.reg_setDt (u : Byte) (z : Nibble) : (s.setDt u).reg z = s.reg z := rfl
@[simp] theorem State.reg_setMem (m : Memory) (z : Nibble) : (s.setMem m).reg z = s.reg z := rfl
@[simp] theorem State.reg_setDisp (d : Display) (z : Nibble) : (s.setDisp d).reg z = s.reg z := rfl
@[simp] theorem State.reg_push (u : Word) (h : s.sp.val < 16) (z : Nibble) : (s.push u h).reg z = s.reg z := rfl
@[simp] theorem State.reg_pop (z : Nibble) : s.pop.reg z = s.reg z := rfl
@[simp] theorem State.reg_takeFault (c : FaultCode) (a w : Word) (z : Nibble) : (s.takeFault c a w).reg z = s.reg z := rfl
@[simp] theorem State.reg_raise (c : FaultCode) (n : Instr) (z : Nibble) : (s.raise c n).reg z = s.reg z := rfl
@[simp] theorem State.reg_advance (z : Nibble) : s.advance.reg z = s.reg z := rfl
@[simp] theorem State.reg_halted (z : Nibble) : s.halted.reg z = s.reg z := rfl
@[simp] theorem State.reg_fetchFault (z : Nibble) : s.fetchFault.reg z = s.reg z := rfl
@[simp] theorem State.reg_unsupported (w : Word) (z : Nibble) : (s.unsupported w).reg z = s.reg z := rfl

@[simp] theorem State.reg_setReg (x z : Nibble) (u : Byte) :
    (s.setReg x u).reg z = if z = x then u else s.reg z := by
  by_cases h : z = x
  · subst h; simp [State.reg]
  · have : x.toNat ≠ z.toNat := fun e => h (BitVec.eq_of_toNat_eq e.symm)
    simp [State.reg, this, h]

/-! ### skipIf -/

@[simp] theorem State.v_skipIf (c : Bool) : (s.skipIf c).v = s.v := by cases c <;> rfl
theorem State.pc_skipIf (c : Bool) : (s.skipIf c).pc = if c then s.pc + 2 else s.pc := by
  cases c <;> rfl
@[simp] theorem State.i_skipIf (c : Bool) : (s.skipIf c).i = s.i := by cases c <;> rfl
@[simp] theorem State.sp_skipIf (c : Bool) : (s.skipIf c).sp = s.sp := by cases c <;> rfl
@[simp] theorem State.stack_skipIf (c : Bool) : (s.skipIf c).stack = s.stack := by cases c <;> rfl
@[simp] theorem State.dt_skipIf (c : Bool) : (s.skipIf c).dt = s.dt := by cases c <;> rfl
@[simp] theorem State.st_skipIf (c : Bool) : (s.skipIf c).st = s.st := by cases c <;> rfl
@[simp] theorem State.mem_skipIf (c : Bool) : (s.skipIf c).mem = s.mem := by cases c <;> rfl
@[simp] theorem State.disp_skipIf (c : Bool) : (s.skipIf c).disp = s.disp := by cases c <;> rfl
@[simp] theorem State.flt_skipIf (c : Bool) : (s.skipIf c).flt = s.flt := by cases c <;> rfl
@[simp] theorem State.dirty_skipIf (c : Bool) : (s.skipIf c).dirty = s.dirty := by cases c <;> rfl
@[simp] theorem State.keys_skipIf (c : Bool) : (s.skipIf c).keys = s.keys := by cases c <;> rfl
@[simp] theorem State.rnd_skipIf (c : Bool) : (s.skipIf c).rnd = s.rnd := by cases c <;> rfl
@[simp] theorem State.inputs_skipIf (c : Bool) : (s.skipIf c).inputs = s.inputs := by cases c <;> rfl
@[simp] theorem State.draws_skipIf (c : Bool) : (s.skipIf c).draws = s.draws := by cases c <;> rfl
@[simp] theorem State.ticked_skipIf (c : Bool) : (s.skipIf c).ticked = s.ticked := by cases c <;> rfl
@[simp] theorem State.reg_skipIf (c : Bool) (z : Nibble) : (s.skipIf c).reg z = s.reg z := by
  cases c <;> rfl

/-! ### countTimers -/

@[simp] theorem State.v_countTimers : s.countTimers.v = s.v := by
  unfold State.countTimers; split <;> rfl
@[simp] theorem State.pc_countTimers : s.countTimers.pc = s.pc := by
  unfold State.countTimers; split <;> rfl
@[simp] theorem State.i_countTimers : s.countTimers.i = s.i := by
  unfold State.countTimers; split <;> rfl
@[simp] theorem State.sp_countTimers : s.countTimers.sp = s.sp := by
  unfold State.countTimers; split <;> rfl
@[simp] theorem State.stack_countTimers : s.countTimers.stack = s.stack := by
  unfold State.countTimers; split <;> rfl
theorem State.dt_countTimers :
    s.countTimers.dt = if s.flt.isSome then s.dt else countDown s.dt := by
  unfold State.countTimers; split <;> rfl
theorem State.st_countTimers :
    s.countTimers.st = if s.flt.isSome then s.st else countDown s.st := by
  unfold State.countTimers; split <;> rfl
@[simp] theorem State.mem_countTimers : s.countTimers.mem = s.mem := by
  unfold State.countTimers; split <;> rfl
@[simp] theorem State.disp_countTimers : s.countTimers.disp = s.disp := by
  unfold State.countTimers; split <;> rfl
@[simp] theorem State.flt_countTimers : s.countTimers.flt = s.flt := by
  unfold State.countTimers; split <;> rfl
@[simp] theorem State.dirty_countTimers : s.countTimers.dirty = s.dirty := by
  unfold State.countTimers; split <;> rfl
@[simp] theorem State.keys_countTimers : s.countTimers.keys = s.keys := by
  unfold State.countTimers; split <;> rfl
@[simp] theorem State.rnd_countTimers : s.countTimers.rnd = s.rnd := by
  unfold State.countTimers; split <;> rfl
@[simp] theorem State.inputs_countTimers : s.countTimers.inputs = s.inputs := by
  unfold State.countTimers; split <;> rfl
@[simp] theorem State.draws_countTimers : s.countTimers.draws = s.draws := by
  unfold State.countTimers; split <;> rfl
@[simp] theorem State.ticked_countTimers : s.countTimers.ticked = s.ticked := by
  unfold State.countTimers; split <;> rfl
@[simp] theorem State.reg_countTimers (z : Nibble) : s.countTimers.reg z = s.reg z := by
  unfold State.countTimers; split <;> rfl

/-! ### nextInputs: the ports and the model's own fields only -/

@[simp] theorem State.v_nextInputs : s.nextInputs.v = s.v := by
  unfold State.nextInputs; split <;> rfl
@[simp] theorem State.pc_nextInputs : s.nextInputs.pc = s.pc := by
  unfold State.nextInputs; split <;> rfl
@[simp] theorem State.i_nextInputs : s.nextInputs.i = s.i := by
  unfold State.nextInputs; split <;> rfl
@[simp] theorem State.sp_nextInputs : s.nextInputs.sp = s.sp := by
  unfold State.nextInputs; split <;> rfl
@[simp] theorem State.stack_nextInputs : s.nextInputs.stack = s.stack := by
  unfold State.nextInputs; split <;> rfl
@[simp] theorem State.dt_nextInputs : s.nextInputs.dt = s.dt := by
  unfold State.nextInputs; split <;> rfl
@[simp] theorem State.st_nextInputs : s.nextInputs.st = s.st := by
  unfold State.nextInputs; split <;> rfl
@[simp] theorem State.mem_nextInputs : s.nextInputs.mem = s.mem := by
  unfold State.nextInputs; split <;> rfl
@[simp] theorem State.disp_nextInputs : s.nextInputs.disp = s.disp := by
  unfold State.nextInputs; split <;> rfl
@[simp] theorem State.flt_nextInputs : s.nextInputs.flt = s.flt := by
  unfold State.nextInputs; split <;> rfl
@[simp] theorem State.dirty_nextInputs : s.nextInputs.dirty = s.dirty := by
  unfold State.nextInputs; split <;> rfl
@[simp] theorem State.ticked_nextInputs : s.nextInputs.ticked = true := by
  unfold State.nextInputs; split <;> rfl
@[simp] theorem State.reg_nextInputs (z : Nibble) : s.nextInputs.reg z = s.reg z := by
  unfold State.nextInputs; split <;> rfl

/-- With nothing listed the keys are held. -/
theorem State.keys_nextInputs_nil (h : s.inputs = []) : s.nextInputs.keys = s.keys := by
  unfold State.nextInputs; rw [h]

/-- The next listed input goes to the ports. -/
theorem State.nextInputs_cons (t : TickInput) (rest : List TickInput) (h : s.inputs = t :: rest) :
    s.nextInputs = { s with keys := t.keys, rnd := t.rnd, inputs := rest, ticked := true } := by
  unfold State.nextInputs; rw [h]

/-! ### onNext -/

@[simp] theorem onNext_next (f : State → State) : onNext f (.next s) = .next (f s) := rfl

/-- Where `onNext` answers a next state, the answer under it was one. -/
theorem onNext_eq_next {f : State → State} {r : Result} {t : State} (h : onNext f r = .next t) :
    ∃ u, r = .next u ∧ f u = t := by
  cases r with
  | next u => exact ⟨u, rfl, by simpa [onNext] using h⟩
  | fault r => simp [onNext] at h
  | refused r => simp [onNext] at h

end Sys2Proof.Machine
end

