-- ==== Sys2Proof/Laws/Ops.lean ====
section
/-!
SUPPORT. One lemma per shared operation that says once what it does.
-/

namespace Sys2Proof.Machine

/-! ### Operands -/

@[simp] theorem zext16_toNat (nnn : Addr) : (zext16 nnn).toNat = nnn.toNat := by
  have := nnn.isLt
  simp [zext16]; omega

/-- Every effective address lies in memory (43_index_memory.md R136). -/
theorem ea_lt (i : Word) (k : Nat) : ea i k < 0x1000 := Nat.mod_lt _ (by decide)

/-- The addresses of one instruction never overlap (20_memory.md R57). -/
theorem ea_inj (i : Word) {k l : Nat} (hk : k < 4096) (hl : l < 4096) (h : ea i k = ea i l) :
    k = l := by
  unfold ea at h; omega

@[simp] theorem advanceI_toNat (i : Word) (d : Nat) :
    (advanceI i d).toNat = (i.toNat + d) % 4096 := by
  have := Nat.mod_lt (i.toNat + d) (show 0 < 4096 by decide)
  simp only [advanceI, BitVec.toNat_ofNat]; omega

@[simp] theorem glyphAddr_toNat (u : Byte) : (glyphAddr u).toNat = u.toNat * 5 := by
  have := u.isLt
  simp only [glyphAddr, BitVec.toNat_ofNat]; omega

theorem bcdDigit_toNat (u : Byte) :
    (bcdDigit u 0).toNat = u.toNat / 100 ∧ (bcdDigit u 1).toNat = u.toNat / 10 % 10
      ∧ (bcdDigit u 2).toNat = u.toNat % 10 := by
  have := u.isLt
  refine ⟨?_, ?_, ?_⟩ <;> simp only [bcdDigit, BitVec.toNat_ofNat] <;> omega

/-! ### The arithmetic unit -/

@[simp] theorem sumByte_toNat (a b : Byte) : (sumByte a b).toNat = (a.toNat + b.toNat) % 256 := by
  simp [sumByte]

@[simp] theorem differenceByte_toNat (a b : Byte) :
    (differenceByte a b).toNat = (256 + a.toNat - b.toNat) % 256 := by
  have := a.isLt; have := b.isLt
  simp only [differenceByte, BitVec.toNat_ofInt]; omega

@[simp] theorem shiftedByte_toNat (b : Byte) : (shiftedByte b).toNat = b.toNat / 2 := by
  have := b.isLt
  simp only [shiftedByte, BitVec.toNat_ofNat]; omega

theorem shiftedOut_eq (b : Byte) : shiftedOut b = decide (b.toNat % 2 = 1) := by
  simp [shiftedOut, BitVec.getLsbD, Nat.testBit_zero]

@[simp] theorem flagByte_toNat (b : Bool) : (flagByte b).toNat = if b then 1 else 0 := by
  cases b <;> rfl

/-- The result goes to `V[x]`, the flag to VF, and the flag stands when they are one register
(40_tick_cycle.md R94). -/
theorem State.reg_setRegFlag (s : State) (x z : Nibble) (u : Byte) (f : Bool) :
    (s.setRegFlag x u f).reg z
      = if z = VF then flagByte f else if z = x then u else s.reg z := by
  simp [State.setRegFlag]

/-! ### Block transfer -/

theorem ofNat4_toNat {k : Nat} (h : k < 16) : (BitVec.ofNat 4 k).toNat = k := by
  simp; omega

/-- What a block store leaves at the addresses it stores to. -/
theorem read_storeRegisters_at (s : State) (c k : Nat) (hc : c ≤ 16) (hk : k < c) :
    (storeRegisters s c).read (ea s.i k) = s.reg (BitVec.ofNat 4 k) := by
  induction c with
  | zero => omega
  | succ c ih =>
    simp only [storeRegisters, Memory.read_write]
    by_cases h : k = c
    · subst h; simp
    · rw [if_neg (fun e => h (ea_inj s.i (by omega) (by omega) e))]
      exact ih (by omega) (by omega)

/-- What a block store leaves everywhere else. -/
theorem read_storeRegisters_other (s : State) (c a : Nat) (h : ∀ k < c, a ≠ ea s.i k) :
    (storeRegisters s c).read a = s.mem.read a := by
  induction c with
  | zero => rfl
  | succ c ih =>
    simp only [storeRegisters, Memory.read_write]
    rw [if_neg (h c (by omega))]
    exact ih fun k hk => h k (by omega)

theorem wf_storeRegisters (s : State) (c : Nat) (h : Memory.wf s.mem = true) :
    Memory.wf (storeRegisters s c) = true := by
  induction c with
  | zero => exact h
  | succ c ih => exact Memory.wf_write _ _ _ ih (ea_lt _ _)

/-- A block load writes general registers and nothing else. -/
theorem loadRegisters_frame (s : State) (c : Nat) :
    loadRegisters s c = { s with v := (loadRegisters s c).v } := by
  induction c with
  | zero => rfl
  | succ c ih => simp only [loadRegisters, State.setReg]; rw [ih]

/-- The registers after a block load. -/
theorem reg_loadRegisters (s : State) (c : Nat) (hc : c ≤ 16) (z : Nibble) :
    (loadRegisters s c).reg z
      = if z.toNat < c then s.mem.read (ea s.i z.toNat) else s.reg z := by
  induction c with
  | zero => simp [loadRegisters]
  | succ c ih =>
    simp only [loadRegisters, State.reg_setReg]
    by_cases h : z = BitVec.ofNat 4 c
    · have hz : z.toNat = c := by rw [h]; exact ofNat4_toNat (by omega)
      rw [if_pos h, if_pos (by omega), hz]
    · have hz : z.toNat ≠ c := fun e =>
        h (BitVec.eq_of_toNat_eq (by rw [ofNat4_toNat (by omega)]; exact e))
      rw [if_neg h, ih (by omega)]
      by_cases hl : z.toNat < c
      · rw [if_pos hl, if_pos (by omega)]
      · rw [if_neg hl, if_neg (by omega)]

/-! ### Keys -/

theorem firstKey_spec (keys : BitVec 16) (n k : Nat) (h : ∃ j, k ≤ j ∧ j < k + n ∧ keys.getLsbD j) :
    k ≤ firstKey keys n k ∧ firstKey keys n k < k + n ∧ keys.getLsbD (firstKey keys n k)
      ∧ ∀ j, k ≤ j → j < firstKey keys n k → keys.getLsbD j = false := by
  induction n generalizing k with
  | zero => obtain ⟨j, h1, h2, _⟩ := h; omega
  | succ n ih =>
    simp only [firstKey]
    split
    · rename_i hk
      exact ⟨le_rfl, by omega, hk, fun j h1 h2 => by omega⟩
    · rename_i hk
      obtain ⟨j, h1, h2, hj⟩ := h
      have hne : j ≠ k := fun e => hk (e ▸ hj)
      obtain ⟨a, b, c, d⟩ := ih (k + 1) ⟨j, by omega, by omega, hj⟩
      refine ⟨by omega, by omega, c, fun l h1 h2 => ?_⟩
      by_cases e : l = k
      · subst e; simpa using hk
      · exact d l (by omega) h2

/-! ### Drawing -/

@[simp] theorem Display.pixel_blank (cx cy : Nat) : Display.blank.pixel cx cy = false := by
  simp only [Display.pixel, Display.row, Display.blank]
  split <;> simp

/-- A flip changes one pixel (44_display.md R141). -/
theorem Display.pixel_flip (d : Display) (cx cy px py : Nat) (hx : cx < 64)
    (hpy : py < 32) :
    (d.flip cx cy).pixel px py = if px = cx ∧ py = cy then !d.pixel px py else d.pixel px py := by
  simp only [Display.pixel, Display.row, Display.flip, hpy, dif_pos,
    Vector.getElem_setIfInBounds]
  by_cases hy : cy = py
  · subst hy
    by_cases h : px = cx
    · subst h; simp [hpy, hx]
    · simp [hpy, h, Ne.symm h]
  · simp [hy, Ne.symm hy]

/-- Two displays with the same pixels are the same display. -/
theorem Display.ext_pixels (d e : Display)
    (h : ∀ cx cy, cx < 64 → cy < 32 → d.pixel cx cy = e.pixel cx cy) : d = e := by
  ext1 cy hcy
  apply BitVec.eq_of_getLsbD_eq
  intro cx hcx
  simpa [Display.pixel, Display.row, hcy] using h cx cy hcx hcy

/-- Two flips of one pixel cancel. -/
theorem Display.flip_flip (d : Display) (cx cy : Nat) (hx : cx < 64) :
    (d.flip cx cy).flip cx cy = d := by
  refine Display.ext_pixels _ _ fun px py _ hpy => ?_
  rw [Display.pixel_flip _ _ _ _ _ hx hpy, Display.pixel_flip _ _ _ _ _ hx hpy]
  split <;> simp

/-- The port's bits are the pixels, row by row (44_display.md R147). -/
theorem Display.getLsbD_port (d : Display) (cx cy : Nat) (hx : cx < 64) (hy : cy < 32) :
    d.port.getLsbD (cy * 64 + cx) = d.pixel cx cy := by
  have rows : ∀ n, n ≤ 32 →
      (d.portRows n).getLsbD (cy * 64 + cx) = (decide (cy < n) && d.pixel cx cy) := by
    intro n
    induction n with
    | zero => intro _; simp [Display.portRows]
    | succ n ih =>
      intro hn
      simp only [Display.portRows, BitVec.getLsbD_or, ih (by omega), BitVec.getLsbD_shiftLeft,
        BitVec.getLsbD_setWidth]
      by_cases e : cy = n
      · subst e
        simp [Display.pixel, show cy * 64 + cx < 2048 by omega, show cx < 2048 by omega]
      · by_cases l : cy < n
        · simp [l, show cy < n + 1 by omega, show cy * 64 + cx < n * 64 by omega]
        · simp [l, show ¬ cy < n + 1 by omega, BitVec.getLsbD_of_ge,
            show 64 ≤ cy * 64 + cx - n * 64 by omega]
  simpa [hy, Display.port] using rows 32 le_rfl

/-- A drawing never forgets a collision, column by column. -/
theorem Drawing.columns_coll (b : Byte) (x0 cy c : Nat) (g : Drawing) (h : g.coll = true) :
    (Drawing.columns b x0 cy c g).coll = true := by
  induction c with
  | zero => exact h
  | succ c ih => simp only [Drawing.columns]; split <;> simp [Drawing.plot, ih]

end Sys2Proof.Machine
end

