-- ==== Sys2Proof/Laws/PerInstr.lean ====
section
/-!
SUPPORT. The per-instruction family EncodesItsRow: the word of every instruction matches the mask
and pattern of its row (30_encoding.md R75).
-/

namespace Sys2Proof.Laws

/-! ### Masking works field by field -/

theorem formatA_and (op m : Nibble) (nnn k : Addr) :
    formatA op nnn &&& formatA m k = formatA (op &&& m) (nnn &&& k) := by
  apply BitVec.eq_of_getLsbD_eq; intro j _
  simp only [BitVec.getLsbD_and, getLsbD_formatA]
  split <;> rfl

theorem formatX_and (op x m k : Nibble) (fn l : Byte) :
    formatX op x fn &&& formatX m k l = formatX (op &&& m) (x &&& k) (fn &&& l) := by
  apply BitVec.eq_of_getLsbD_eq; intro j _
  simp only [BitVec.getLsbD_and, getLsbD_formatX]
  split
  · rfl
  · split <;> rfl

theorem formatR_and (op x y n m k l j : Nibble) :
    formatR op x y n &&& formatR m k l j = formatR (op &&& m) (x &&& k) (y &&& l) (n &&& j) := by
  have h : ∀ a b c d e f g i : Nibble, a ++ b ++ c ++ d &&& e ++ f ++ g ++ i
      = (a &&& e) ++ (b &&& f) ++ (c &&& g) ++ (d &&& i) := by
    intros; simp only [BitVec.and_append]
  exact h ..

theorem masked_zero {w : Nat} (a : BitVec w) : a &&& 0 = 0 := BitVec.and_zero

/-! ### A row in each format -/

theorem holds_formatA (op : Nibble) (nnn : Addr) :
    OpcodeRow.holds ⟨formatA 0xF 0, formatA op 0⟩ (formatA op nnn) = true := by
  have h : op &&& 0xF = op := BitVec.and_allOnes
  rw [OpcodeRow.holds, formatA_and, h, masked_zero, beq_self_eq_true]

theorem holds_formatI (op x : Nibble) (kk : Byte) :
    OpcodeRow.holds ⟨formatX 0xF 0 0, formatX op 0 0⟩ (formatI op x kk) = true := by
  have h : op &&& 0xF = op := BitVec.and_allOnes
  rw [OpcodeRow.holds, show formatI op x kk = formatX op x kk from rfl, formatX_and, h,
    masked_zero, masked_zero, beq_self_eq_true]

theorem holds_formatX (op x : Nibble) (fn : Byte) :
    OpcodeRow.holds ⟨formatX 0xF 0 0xFF, formatX op 0 fn⟩ (formatX op x fn) = true := by
  have h : op &&& 0xF = op := BitVec.and_allOnes
  have h' : fn &&& 0xFF = fn := BitVec.and_allOnes
  rw [OpcodeRow.holds, formatX_and, h, h', masked_zero, beq_self_eq_true]

theorem holds_formatR (op x y n : Nibble) :
    OpcodeRow.holds ⟨formatR 0xF 0 0 0xF, formatR op 0 0 n⟩ (formatR op x y n) = true := by
  have h : ∀ z : Nibble, z &&& 0xF = z := fun z => BitVec.and_allOnes
  rw [OpcodeRow.holds, formatR_and, h, h, masked_zero, masked_zero, beq_self_eq_true]

theorem holds_formatD (op x y n : Nibble) :
    OpcodeRow.holds ⟨formatR 0xF 0 0 0, formatR op 0 0 0⟩ (formatR op x y n) = true := by
  have h : op &&& 0xF = op := BitVec.and_allOnes
  rw [OpcodeRow.holds, formatR_and, h, masked_zero, masked_zero, masked_zero,
    beq_self_eq_true]

/-- The instruction's word matches its row of the map. -/
def EncodesItsRow.Statement (i : Instr) : Prop := i.row.holds (encode i) = true

theorem EncodesItsRow.cls : EncodesItsRow.Statement (.cls) := rfl
theorem EncodesItsRow.ret : EncodesItsRow.Statement (.ret) := rfl
theorem EncodesItsRow.jp (nnn : Addr) : EncodesItsRow.Statement (.jp nnn) := holds_formatA _ nnn
theorem EncodesItsRow.call (nnn : Addr) : EncodesItsRow.Statement (.call nnn) := holds_formatA _ nnn
theorem EncodesItsRow.seImm (x : Nibble) (kk : Byte) : EncodesItsRow.Statement (.seImm x kk) := holds_formatI _ x kk
theorem EncodesItsRow.sneImm (x : Nibble) (kk : Byte) : EncodesItsRow.Statement (.sneImm x kk) := holds_formatI _ x kk
theorem EncodesItsRow.seReg (x y : Nibble) : EncodesItsRow.Statement (.seReg x y) := holds_formatR _ x y _
theorem EncodesItsRow.ldImm (x : Nibble) (kk : Byte) : EncodesItsRow.Statement (.ldImm x kk) := holds_formatI _ x kk
theorem EncodesItsRow.addImm (x : Nibble) (kk : Byte) : EncodesItsRow.Statement (.addImm x kk) := holds_formatI _ x kk
theorem EncodesItsRow.ldReg (x y : Nibble) : EncodesItsRow.Statement (.ldReg x y) := holds_formatR _ x y _
theorem EncodesItsRow.orReg (x y : Nibble) : EncodesItsRow.Statement (.orReg x y) := holds_formatR _ x y _
theorem EncodesItsRow.andReg (x y : Nibble) : EncodesItsRow.Statement (.andReg x y) := holds_formatR _ x y _
theorem EncodesItsRow.xorReg (x y : Nibble) : EncodesItsRow.Statement (.xorReg x y) := holds_formatR _ x y _
theorem EncodesItsRow.addReg (x y : Nibble) : EncodesItsRow.Statement (.addReg x y) := holds_formatR _ x y _
theorem EncodesItsRow.subReg (x y : Nibble) : EncodesItsRow.Statement (.subReg x y) := holds_formatR _ x y _
theorem EncodesItsRow.shr (x y : Nibble) : EncodesItsRow.Statement (.shr x y) := holds_formatR _ x y _
theorem EncodesItsRow.sneReg (x y : Nibble) : EncodesItsRow.Statement (.sneReg x y) := holds_formatR _ x y _
theorem EncodesItsRow.ldI (nnn : Addr) : EncodesItsRow.Statement (.ldI nnn) := holds_formatA _ nnn
theorem EncodesItsRow.rnd (x : Nibble) (kk : Byte) : EncodesItsRow.Statement (.rnd x kk) := holds_formatI _ x kk
theorem EncodesItsRow.drw (x y n : Nibble) : EncodesItsRow.Statement (.drw x y n) := holds_formatD _ x y n
theorem EncodesItsRow.skp (x : Nibble) : EncodesItsRow.Statement (.skp x) := holds_formatX _ x _
theorem EncodesItsRow.sknp (x : Nibble) : EncodesItsRow.Statement (.sknp x) := holds_formatX _ x _
theorem EncodesItsRow.ldVxDt (x : Nibble) : EncodesItsRow.Statement (.ldVxDt x) := holds_formatX _ x _
theorem EncodesItsRow.ldVxK (x : Nibble) : EncodesItsRow.Statement (.ldVxK x) := holds_formatX _ x _
theorem EncodesItsRow.ldDtVx (x : Nibble) : EncodesItsRow.Statement (.ldDtVx x) := holds_formatX _ x _
theorem EncodesItsRow.addI (x : Nibble) : EncodesItsRow.Statement (.addI x) := holds_formatX _ x _
theorem EncodesItsRow.ldF (x : Nibble) : EncodesItsRow.Statement (.ldF x) := holds_formatX _ x _
theorem EncodesItsRow.ldB (x : Nibble) : EncodesItsRow.Statement (.ldB x) := holds_formatX _ x _
theorem EncodesItsRow.stRegs (x : Nibble) : EncodesItsRow.Statement (.stRegs x) := holds_formatX _ x _
theorem EncodesItsRow.ldRegs (x : Nibble) : EncodesItsRow.Statement (.ldRegs x) := holds_formatX _ x _

end Sys2Proof.Laws
end

