-- ==== Sys2Proof/Tests/Slice0.lean ====
section
/-!
SUPPORT. The model's own tests: what WellFormed refuses, words written out from the encodings,
one or two vectors of spec/95_test_vectors.md for each instruction, and for each statement of
Certificates/Slice0/Obligations.lean that has hypotheses a state that meets them.
-/

namespace Sys2Proof.Tests

open Sys2Proof.Machine

/-! ### Helpers -/

/-- Power-on with one instruction word at 0x200 (95_test_vectors.md, conventions). -/
def start (w : Nat) : State := State.reset.withFetchWord 16 w

/-- One tick answers a next state with the property. -/
def after (s : State) (p : State → Bool) : Bool :=
  match step s with
  | .next t => p t
  | _ => false

/-- The core has latched this record. -/
def latched (t : State) (c : FaultCode) (a w : Word) : Bool := t.flt == some ⟨c, a, w⟩

/-- A stack pointer. -/
def spAt (n : Nat) (h : n < 17 := by decide) : Fin 17 := ⟨n, h⟩

/-- Exactly these pixels are on. -/
def shows (t : State) (l : List (Nat × Nat)) : Bool :=
  t.disp == (l.foldl (fun d p => d.flip p.1 p.2) Display.blank)

/-! ### WellFormed: one ill-formed term for each check -/

theorem test_wf_default : defaultConfig.wf = true := by decide
theorem test_wf_odd_start : Config.wf { defaultConfig with startAddr := 0x201 } = false := by decide
theorem test_wf_low_start : Config.wf { defaultConfig with startAddr := 0x04E } = false := by decide
theorem test_wf_high_start : Config.wf { defaultConfig with startAddr := 0x1000 } = false := by
  decide
theorem test_wf_short_font : Config.wf { defaultConfig with font := [0xF0] } = false := by decide
theorem test_fits_too_long :
    Config.fits { defaultConfig with startAddr := 0xFFE } [1, 2, 3] = false := by decide
theorem test_memory_wf_refuses : Memory.wf [(0x300, 1), (0x300, 2)] = false
    ∧ Memory.wf [(0x300, 0)] = false ∧ Memory.wf [(0x1000, 1)] = false
    ∧ Memory.wf [(0x301, 1), (0x300, 2)] = false := by decide

/-! ### The default font: the table of 10_state.md R38, glyph by glyph -/

/-- The five bytes that power-on memory holds for a glyph, top row first. -/
def glyphBytes (g : Nat) : List Nat :=
  (List.range 5).map fun k => (State.reset.mem.read (5 * g + k)).toNat

theorem test_font_0_to_7 : (List.range 8).map glyphBytes =
    [[0xF0, 0x90, 0x90, 0x90, 0xF0], [0x20, 0x60, 0x20, 0x20, 0x70], [0xF0, 0x10, 0xF0, 0x80, 0xF0],
      [0xF0, 0x10, 0xF0, 0x10, 0xF0], [0x90, 0x90, 0xF0, 0x10, 0x10], [0xF0, 0x80, 0xF0, 0x10, 0xF0],
      [0xF0, 0x80, 0xF0, 0x90, 0xF0], [0xF0, 0x10, 0x20, 0x40, 0x40]] := by decide
theorem test_font_8_to_F : (List.range 8).map (fun g => glyphBytes (8 + g)) =
    [[0xF0, 0x90, 0xF0, 0x90, 0xF0], [0xF0, 0x90, 0xF0, 0x10, 0xF0], [0xF0, 0x90, 0xF0, 0x90, 0x90],
      [0xE0, 0x90, 0xE0, 0x90, 0xE0], [0xF0, 0x80, 0x80, 0x80, 0xF0], [0xE0, 0x90, 0x90, 0x90, 0xE0],
      [0xF0, 0x80, 0xF0, 0x80, 0xF0], [0xF0, 0x80, 0xF0, 0x80, 0x80]] := by decide

/-! ### Decoding: the table of 95_test_vectors.md section 2.6 -/

theorem test_decode_flow :
    [0x00EE, 0x1ABC, 0x2ABC, 0x3A7F, 0x4A7F, 0x5AB0, 0x9AB0].map (decodeTableWord 16)
      = [some .ret, some (.jp 0xABC), some (.call 0xABC), some (.seImm 0xA 0x7F),
        some (.sneImm 0xA 0x7F), some (.seReg 0xA 0xB), some (.sneReg 0xA 0xB)] := by decide

theorem test_decode_alu :
    [0x6A7F, 0x7A7F, 0x8AB0, 0x8AB1, 0x8AB2, 0x8AB3, 0x8AB4, 0x8AB5, 0x8AB6, 0xCA7F].map
        (decodeTableWord 16)
      = [some (.ldImm 0xA 0x7F), some (.addImm 0xA 0x7F), some (.ldReg 0xA 0xB),
        some (.orReg 0xA 0xB), some (.andReg 0xA 0xB), some (.xorReg 0xA 0xB),
        some (.addReg 0xA 0xB), some (.subReg 0xA 0xB), some (.shr 0xA 0xB),
        some (.rnd 0xA 0x7F)] := by decide

theorem test_decode_memory :
    [0xAABC, 0xFA1E, 0xFA29, 0xFA33, 0xFA55, 0xFA65].map (decodeTableWord 16)
      = [some (.ldI 0xABC), some (.addI 0xA), some (.ldF 0xA), some (.ldB 0xA), some (.stRegs 0xA),
        some (.ldRegs 0xA)] := by decide

theorem test_decode_display_keys_timer :
    [0x00E0, 0xDAB5, 0xEA9E, 0xEAA1, 0xFA07, 0xFA0A, 0xFA15].map (decodeTableWord 16)
      = [some .cls, some (.drw 0xA 0xB 5), some (.skp 0xA), some (.sknp 0xA), some (.ldVxDt 0xA),
        some (.ldVxK 0xA), some (.ldDtVx 0xA)] := by decide

theorem test_decode_unknown :
    ∀ w ∈ [0x0000, 0x00E1, 0x00FD, 0x0200, 0x5AB1, 0x8AB7, 0x8ABE, 0x9AB1, 0xBABC, 0xEAA0, 0xFA18,
      0xFA30, 0xFAFF], decodeTableWord 16 w = none := by decide

theorem test_decode_bytes_order : decodeBytes [0x80, 0x14, 0x99] = .ok (.addReg 0 1, [0x99])
    ∧ decodeBytes [0x80] = .error .truncated := by decide

/-- No two rows of the map overlap (30_encoding.md R75): under both masks they differ. -/
theorem test_opcode_rows_disjoint :
    opcodeMap.Pairwise fun r q => (r.pattern ^^^ q.pattern) &&& r.mask &&& q.mask ≠ 0 := by decide

/-! ### Control flow (section 2.1) -/

theorem test_jp : after (start 0x1204) (fun t => t.pc == 0x204) = true := by decide
theorem test_jp_outside_then_fault :
    after { State.reset with pc := 0xFFF }
      (fun t => latched t .fetchOutOfRange 0xFFF 0 && t.pc == 0xFFF) = true := by decide
theorem test_call_last_slot :
    after { start 0x2ABC with sp := spAt 15 }
      (fun t => t.stack[15] == 0x0202 && t.sp.val == 16 && t.pc == 0xABC) = true := by decide
theorem test_call_full :
    after { start 0x2ABC with sp := spAt 16 }
      (fun t => latched t .stackOverflow 0x200 0x2ABC && t.pc == 0x202 && t.sp.val == 16) = true := by
  decide
theorem test_ret :
    after { start 0x00EE with sp := spAt 16, stack := (State.reset.stack).set 15 0x0345 }
      (fun t => t.sp.val == 15 && t.pc == 0x345) = true := by decide
theorem test_ret_empty :
    after (start 0x00EE)
      (fun t => latched t .stackUnderflow 0x200 0x00EE && t.pc == 0x202 && t.sp.val == 0) = true := by
  decide
theorem test_se_imm : after ((start 0x3A3C).setReg 10 0x3C) (fun t => t.pc == 0x204) = true
    ∧ after ((start 0x3A3C).setReg 10 0x3D) (fun t => t.pc == 0x202) = true := by decide
theorem test_sne_imm : after ((start 0x4A3C).setReg 10 0x3C) (fun t => t.pc == 0x202) = true
    ∧ after ((start 0x4A3C).setReg 10 0x3D) (fun t => t.pc == 0x204) = true := by decide
theorem test_se_reg :
    after (((start 0x5230).setReg 2 0x40).setReg 3 0x40) (fun t => t.pc == 0x204) = true
    ∧ after (((start 0x5230).setReg 2 0x40).setReg 3 0x41) (fun t => t.pc == 0x202) = true := by
  decide
theorem test_sne_reg :
    after (((start 0x9010).setReg 0 1).setReg 1 2) (fun t => t.pc == 0x204) = true
    ∧ after (start 0x9000) (fun t => t.pc == 0x202) = true := by decide
/-- CF20: a skip at the top of memory. -/
theorem test_skip_past_memory :
    after ({ State.reset with pc := 0xFFE }.withFetchWord 16 0x3000) (fun t => t.pc == 0x1002)
      = true := by decide
/-- CF22: an odd `pc` is fetched as it stands. -/
theorem test_odd_fetch :
    after ({ State.reset with pc := 0x203 }.withFetchWord 16 0x6007)
      (fun t => t.reg 0 == 7 && t.pc == 0x205) = true := by decide

/-! ### Registers and arithmetic (section 2.2) -/

theorem test_ld_imm : after (start 0x6FAB) (fun t => t.reg 15 == 0xAB) = true := by decide
theorem test_add_imm_wraps :
    after ((start 0x7102).setReg 1 0xFF) (fun t => t.reg 1 == 1 && t.reg 15 == 0) = true := by decide
theorem test_ld_reg : after ((start 0x8230).setReg 3 0x7E) (fun t => t.reg 2 == 0x7E) = true := by
  decide
theorem test_or : after ((((start 0x8011).setReg 0 0xF0).setReg 1 0x0F).setReg 15 7)
    (fun t => t.reg 0 == 0xFF && t.reg 15 == 7) = true := by decide
theorem test_and : after (((start 0x8012).setReg 0 0xF3).setReg 1 0x3C)
    (fun t => t.reg 0 == 0x30) = true := by decide
theorem test_xor : after (((start 0x8013).setReg 0 0xFF).setReg 1 0x0F)
    (fun t => t.reg 0 == 0xF0) = true := by decide
theorem test_add_carry : after (((start 0x8014).setReg 0 0xFF).setReg 1 0xFF)
    (fun t => t.reg 0 == 0xFE && t.reg 15 == 1) = true := by decide
/-- AL16: with `x = 15` the flag stands. -/
theorem test_add_flag_stands : after (((start 0x8F14).setReg 15 1).setReg 1 2)
    (fun t => t.reg 15 == 0) = true := by decide
theorem test_sub_borrow : after (((start 0x8015).setReg 0 0x10).setReg 1 0x20)
    (fun t => t.reg 0 == 0xF0 && t.reg 15 == 0) = true := by decide
theorem test_sub_equal : after (((start 0x8015).setReg 0 7).setReg 1 7)
    (fun t => t.reg 0 == 0 && t.reg 15 == 1) = true := by decide
theorem test_shr_source_is_vy : after (((start 0x8016).setReg 0 0xAA).setReg 1 5)
    (fun t => t.reg 0 == 2 && t.reg 1 == 5 && t.reg 15 == 1) = true := by decide
theorem test_shr_flag_stands : after ((start 0x8F16).setReg 1 4) (fun t => t.reg 15 == 0) = true := by
  decide
theorem test_rnd : after { start 0xC00F with rnd := 0xA7 } (fun t => t.reg 0 == 7) = true := by decide

/-! ### Address pointer and memory (section 2.3) -/

theorem test_ld_i : after (start 0xAFFF) (fun t => t.i == 0xFFF) = true := by decide
theorem test_add_i_wraps : after { (start 0xF01E).setReg 0 0xFF with i := 0xF80 }
    (fun t => t.i == 0x07F && t.reg 15 == 0) = true := by decide
theorem test_ld_f : after ((start 0xF029).setReg 0 0xFF) (fun t => t.i == 0x4FB) = true := by decide
/-- IM13: the third digit wraps into the font. -/
theorem test_ld_b_wraps : after { (start 0xF033).setReg 0 255 with i := 0xFFE }
    (fun t => t.mem.read 0xFFE == 2 && t.mem.read 0xFFF == 5 && t.mem.read 0 == 5 && t.i == 0xFFE)
      = true := by decide
theorem test_st_regs : after { ((start 0xF155).setReg 0 0x11).setReg 1 0x22 with i := 0x400 }
    (fun t => t.mem.read 0x400 == 0x11 && t.mem.read 0x401 == 0x22 && t.mem.read 0x402 == 0
      && t.i == 0x400) = true := by decide
/-- IM17: the block wraps into the font. -/
theorem test_ld_regs_wraps :
    after { start 0xF365 with
        i := 0xFFE, mem := Memory.writeBytes (start 0xF365).mem 0xFFE [0xAA, 0xBB] }
      (fun t => t.reg 0 == 0xAA && t.reg 1 == 0xBB && t.reg 2 == 0xF0 && t.reg 3 == 0x90
        && t.reg 4 == 0 && t.i == 2) = true := by decide
/-- Writing the unlisted value takes the cell out: memory stays canonical. -/
theorem test_write_unlisted_removes :
    Memory.write [(0x300, 7)] 0x300 0 = [] ∧ Memory.write [] 0 0xF0 = [] := by decide

/-! ### Display (section 2.4) -/

/-- A sprite at 0x300 and I pointing at it. -/
def sprite (w : Nat) (bytes : List Byte) : State :=
  { start w with i := 0x300, mem := Memory.writeBytes (start w).mem 0x300 bytes }

theorem test_cls : after { start 0x00E0 with disp := Display.blank.flip 63 31 }
    (fun t => shows t [] && t.dirty) = true := by decide
theorem test_drw_horizontal_wrap :
    after ((sprite 0xD011 [0xFF]).setReg 0 60)
      (fun t => shows t [(60, 0), (61, 0), (62, 0), (63, 0), (0, 0), (1, 0), (2, 0), (3, 0)]
        && t.reg 15 == 0 && t.dirty) = true := by decide
/-- DP7: a collision, and the pixel goes off. -/
theorem test_drw_collision :
    after ({ sprite 0xD011 [0xC0] with disp := Display.blank.flip 1 0 }.setReg 15 9)
      (fun t => shows t [(0, 0)] && t.reg 15 == 1) = true := by decide
/-- DP10: the coordinate is read before VF is written. -/
theorem test_drw_old_vf :
    after (((sprite 0xDF01 [0x80]).setReg 15 3).setReg 0 2)
      (fun t => shows t [(3, 2)] && t.reg 15 == 0) = true := by decide

/-- Pixel (3, 2) is bit 2 * 64 + 3 of the port (44_display.md R147). -/
theorem test_port_row_major : (Display.blank.flip 3 2).port.getLsbD 131 = true :=
  (Display.getLsbD_port _ 3 2 (by decide) (by decide)).trans (by decide)

/-! ### Keypad and timers (section 2.5) -/

theorem test_skp : after { (start 0xE09E).setReg 0 7 with keys := 0x0080 } (fun t => t.pc == 0x204)
    = true ∧ after { (start 0xE09E).setReg 0 7 with keys := 0xFF7F } (fun t => t.pc == 0x202)
    = true := by decide
theorem test_skp_out_of_range : after ((start 0xE09E).setReg 0 16)
    (fun t => latched t .keyIndexOutOfRange 0x200 0xE09E && t.pc == 0x202) = true := by decide
theorem test_sknp : after ((start 0xE0A1).setReg 0 7) (fun t => t.pc == 0x204) = true
    ∧ after { (start 0xE0A1).setReg 0 15 with keys := 0x8000 } (fun t => t.pc == 0x202) = true := by
  decide
theorem test_ld_vx_dt : after { start 0xF207 with dt := 5 }
    (fun t => t.reg 2 == 5 && t.dt == 4) = true := by decide
theorem test_ld_dt_vx : after ((start 0xF015).setReg 0 10) (fun t => t.dt == 9) = true := by decide
theorem test_ld_dt_zero : after { start 0xF015 with dt := 7 } (fun t => t.dt == 0) = true := by decide
theorem test_key_stall : after { start 0xF10A with dt := 3 }
    (fun t => t.pc == 0x200 && t.reg 1 == 0 && t.dt == 2 && !t.dirty) = true := by decide
theorem test_key_lowest : after { start 0xF10A with keys := 0x0088 }
    (fun t => t.reg 1 == 3 && t.pc == 0x202) = true := by decide

/-! ### Faults, the halted core, the host (section 2.7) -/

/-- The codes of 60_exceptions.md R160. -/
theorem test_fault_codes : [FaultCode.unsupportedOpcode, .stackOverflow, .stackUnderflow,
    .fetchOutOfRange, .keyIndexOutOfRange].map FaultCode.number = [1, 2, 3, 4, 5] := by decide
/-- FL1 with FL3: the timers are not counted in a faulting tick. -/
theorem test_unknown_word : after { start 0xF018 with dt := 9 }
    (fun t => latched t .unsupportedOpcode 0x200 0xF018 && t.pc == 0x202 && t.dt == 9 && !t.dirty)
      = true := by decide
theorem test_halted : after { start 0x6001 with flt := some ⟨.stackOverflow, 0x300, 0x2ABC⟩, dt := 9 }
    (fun t => t.reg 0 == 0 && t.pc == 0x200 && t.dt == 9 && t.flt.isSome) = true := by decide
/-- The keys change between ticks as the host's list says. -/
theorem test_inputs : after { start 0x6001 with inputs := [⟨0x0080, 0xA7⟩] }
    (fun t => t.keys == 0x0080 && t.rnd == 0xA7 && t.inputs == [] && t.ticked) = true := by decide
/-- FL4: warm reset after a fault. -/
theorem test_warm_reset :
    (match hostOp defaultConfig (.reset false)
        { (start 0xF018).setReg 3 7 with
          flt := some ⟨.unsupportedOpcode, 0x200, 0xF018⟩, pc := 0x202, i := 0x300 } with
      | .next t => t.flt.isNone && t.pc == 0x200 && t.i == 0 && t.reg 3 == 0
          && t.mem.read 0x200 == 0xF0
      | _ => false) = true := by decide
/-- FL7: full reset spares what precedes the program. -/
theorem test_full_reset :
    (match hostOp defaultConfig (.reset true)
        { State.reset with mem := Memory.writeBytes [] 0x1FF [7, 8, 9] } with
      | .next t => t.mem.read 0x1FF == 7 && t.mem.read 0x200 == 0 && t.mem.read 0x201 == 0
      | _ => false) = true := by decide
theorem test_load : (match hostOp defaultConfig (.load [0x60, 0x05]) State.reset with
    | .next t => after t (fun u => u.reg 0 == 5)
    | _ => false) = true := by decide
theorem test_host_refusals :
    (match hostOp defaultConfig (.load [1]) { State.reset with ticked := true } with
      | .refused .loadDuringRun => true
      | _ => false) = true
    ∧ (match hostOp defaultConfig .resume State.reset with
      | .refused .resumeAfterFault => true
      | _ => false) = true
    ∧ (match hostOp defaultConfig (.setKey 16 true) State.reset with
      | .fault .invalidKeyIndex => true
      | _ => false) = true := by decide
/-- From reset with nothing loaded the first tick fetches 0x0000 and faults (70_reset_and_hazards.md
R194). -/
theorem test_reset_runs_zero_word : after State.reset
    (fun t => latched t .unsupportedOpcode 0x200 0x0000) = true := by decide

/-! ### States that meet the hypotheses of the statements -/

/-- A legal configuration at each end of the range of start addresses. -/
def lowConfig : Config := { defaultConfig with startAddr := 0x050 }
def highConfig : Config := { defaultConfig with startAddr := 0xFFE }

theorem witness_configs : lowConfig.wf = true ∧ highConfig.wf = true := by decide

theorem witness_DecodeOfEncodeIsInstruction : (Instr.drw 0xA 0xF 0).wf = true := by decide

theorem witness_EncodeOfDecodedWordIsWord : decode 0xDAF0 = .ok (.drw 0xA 0xF 0) := by decide

theorem witness_DecodeAgreesWithOpcodeMap :
    decode 0x8AB6 = .ok (.shr 0xA 0xB)
      ∧ ∃ r ∈ opcodeMap, ∃ r' ∈ opcodeMap, r.holds 0x8AB6 = true ∧ r'.holds 0x8AB6 = true := by
  decide

/-- The ends of every group of the table of unknown words, and the words next to them that are
instructions. -/
theorem witness_UnknownWordsByGroup_low :
    ∀ w ∈ [0x0000, 0x00DF, 0x00E1, 0x00ED, 0x00EF, 0x0FFF, 0x5001, 0x5FFF, 0x8007, 0x8FFF, 0x9001,
        0x9FFF, 0xB000], (decodeTableWord 16 w).isSome = false := by decide
theorem witness_UnknownWordsByGroup_high :
    ∀ w ∈ [0xBFFF, 0xE09D, 0xE09F, 0xEFA2, 0xF006, 0xF008, 0xF00B, 0xF016, 0xF01F, 0xF028, 0xF032,
        0xF054, 0xFF66], (decodeTableWord 16 w).isSome = false := by decide
theorem witness_UnknownWordsByGroup_known :
    ∀ w ∈ [0x00E0, 0x00EE, 0x1000, 0x5000, 0x8006, 0x9FF0, 0xAFFF, 0xC000, 0xE09E, 0xEFA1, 0xF007,
        0xFF65], (decodeTableWord 16 w).isSome = true := by decide

theorem witness_StepRunsDecodedInstruction :
    let s := { State.reset with pc := 0xFFE }.withFetchWord 16 0xDAB5
    s.flt = none ∧ s.pc.toNat ≤ 0xFFE
      ∧ decode (wordOfBytes (s.mem.read s.pc.toNat) (s.mem.read (s.pc.toNat + 1)))
        = .ok (.drw 0xA 0xB 5) := by decide

theorem witness_UnknownWordIsLatched :
    let s := start 0xBABC
    s.flt = none ∧ s.pc.toNat ≤ 0xFFE ∧ decode s.fetchWord = .error (.unknownOpcode 0xBABC) := by
  decide

theorem witness_FetchOutsideMemoryIsLatched :
    let s := { State.reset with pc := 0xFFF }
    s.flt = none ∧ 0xFFE < s.pc.toNat := by decide

theorem witness_FaultedCoreIsFrozen :
    { State.reset with flt := some ⟨.stackOverflow, 0x300, 0x2ABC⟩ }.flt ≠ none := by decide

/-- One state for each of the five causes, at the value next to the one that runs. -/
theorem witness_FaultsExactlyWhen_causes :
    (∃ t, step { State.reset with pc := 0xFFF } = .next t ∧ t.flt = some ⟨.fetchOutOfRange, 0xFFF, 0⟩)
    ∧ (∃ t, step (start 0x8AB7) = .next t ∧ t.flt = some ⟨.unsupportedOpcode, 0x200, 0x8AB7⟩)
    ∧ (∃ t, step { start 0x2ABC with sp := spAt 16 } = .next t
        ∧ t.flt = some ⟨.stackOverflow, 0x200, 0x2ABC⟩)
    ∧ (∃ t, step (start 0x00EE) = .next t ∧ t.flt = some ⟨.stackUnderflow, 0x200, 0x00EE⟩)
    ∧ (∃ t, step ((start 0xE09E).setReg 0 16) = .next t
        ∧ t.flt = some ⟨.keyIndexOutOfRange, 0x200, 0xE09E⟩)
    ∧ (∃ t, step ((start 0xEFA1).setReg 15 16) = .next t
        ∧ t.flt = some ⟨.keyIndexOutOfRange, 0x200, 0xEFA1⟩) :=
  ⟨⟨_, rfl, by decide⟩, ⟨_, rfl, by decide⟩, ⟨_, rfl, by decide⟩, ⟨_, rfl, by decide⟩,
    ⟨_, rfl, by decide⟩, ⟨_, rfl, by decide⟩⟩

/-- The values on the other side of each cause: no fault. -/
theorem witness_FaultsExactlyWhen_runs :
    (∃ t, step ({ State.reset with pc := 0xFFE }.withFetchWord 16 0x6001) = .next t ∧ t.flt = none)
    ∧ (∃ t, step { start 0x2ABC with sp := spAt 15 } = .next t ∧ t.flt = none)
    ∧ (∃ t, step { start 0x00EE with sp := spAt 1 } = .next t ∧ t.flt = none)
    ∧ (∃ t, step ((start 0xE09E).setReg 0 15) = .next t ∧ t.flt = none) :=
  ⟨⟨_, rfl, by decide⟩, ⟨_, rfl, by decide⟩, ⟨_, rfl, by decide⟩, ⟨_, rfl, by decide⟩⟩

theorem witness_FaultsArePrecise :
    (∃ t r, step (start 0xF018) = .next t ∧ t.flt = some r ∧ r.code ≠ .fetchOutOfRange)
    ∧ (∃ t r, step { State.reset with pc := 0xFFFF } = .next t ∧ t.flt = some r
        ∧ r.code = .fetchOutOfRange) :=
  ⟨⟨_, _, rfl, rfl, by decide⟩, ⟨_, _, rfl, rfl, by decide⟩⟩

theorem witness_TimersCountOncePerTick :
    (∃ t, step ((start 0xF015).setReg 0 1) = .next t ∧ t.flt = none
        ∧ decode (start 0xF015).fetchWord = .ok (.ldDtVx 0))
    ∧ (∃ t, step { start 0xF207 with dt := 1 } = .next t ∧ t.flt = none
        ∧ decode (start 0xF207).fetchWord = .ok (.ldVxDt 2))
    ∧ (∃ t, step { start 0x6001 with dt := 0 } = .next t ∧ t.flt = none
        ∧ ∀ x, Instr.ldImm 0 1 ≠ .ldDtVx x)
    ∧ (∃ t, step { start 0x00EE with dt := 9 } = .next t ∧ t.flt ≠ none
        ∧ decode (start 0x00EE).fetchWord = .ok .ret) :=
  ⟨⟨_, rfl, by decide, by decide⟩, ⟨_, rfl, by decide, by decide⟩,
    ⟨_, rfl, by decide, fun _ => Instr.noConfusion⟩, ⟨_, rfl, by decide, by decide⟩⟩

theorem witness_DirtyReportsClearOrDraw :
    (∃ t, step (start 0x00E0) = .next t ∧ t.dirty = true)
    ∧ (∃ t, step (start 0xD010) = .next t ∧ t.dirty = true)
    ∧ (∃ t, step { start 0x6001 with dirty := true } = .next t ∧ t.dirty = false) :=
  ⟨⟨_, rfl, by decide⟩, ⟨_, rfl, by decide⟩, ⟨_, rfl, by decide⟩⟩

theorem witness_DisplayChangesOnlyWhenDirty :
    ∃ t, step { start 0x6001 with disp := Display.blank.flip 0 0 } = .next t ∧ t.dirty = false :=
  ⟨_, rfl, by decide⟩

/-- A state inside the invariant that reset is not: `pc` and a slot at their ends, memory listed. -/
theorem witness_EveryStepKeepsInv :
    ∃ t, step { start 0xF033 with i := 0xFFF, stack := State.reset.stack.set 15 0x1000 } = .next t
      ∧ State.Inv { start 0xF033 with i := 0xFFF, stack := State.reset.stack.set 15 0x1000 }
      ∧ State.Inv { start 0xF033 with pc := 0x1002 } :=
  ⟨_, rfl, ⟨by decide, by decide, by decide, by decide, by decide⟩,
    ⟨by decide, by decide, by decide, by decide, by decide⟩⟩

theorem witness_EndedRunStaysEnded : (start 0x1200).Ended := by
  refine ⟨?_, ?_, ?_⟩ <;> decide

theorem witness_WaitingTickOnlyCounts : State.Waiting { start 0xFF0A with dt := 3 } :=
  ⟨by decide, by decide, ⟨15, by decide⟩, by decide⟩

theorem witness_InstructionsWriteOnlyTheirOwn :
    (∃ t, exec (.drw 0 1 15) (start 0xD01F) = .next t) ∧ Instr.writesReg (.drw 0 1 15) 14 = false
    ∧ (∃ t, exec (.call 0x300) { State.reset with sp := spAt 16 } = .next t) :=
  ⟨⟨_, rfl⟩, by decide, ⟨_, rfl⟩⟩

theorem witness_OnlyKeyInstructionsReadKeys :
    (∀ x, Instr.drw 0 1 5 ≠ .skp x) ∧ (∀ x, Instr.drw 0 1 5 ≠ .sknp x)
      ∧ (∀ x, Instr.drw 0 1 5 ≠ .ldVxK x) :=
  ⟨fun _ => Instr.noConfusion, fun _ => Instr.noConfusion, fun _ => Instr.noConfusion⟩

theorem witness_OnlyRndReadsRandomPort : ∀ x kk, Instr.ldImm 0 5 ≠ .rnd x kk :=
  fun _ _ => Instr.noConfusion

theorem witness_CanonicalMemoryIsItsReadings :
    Memory.wf [(0x000, 1), (0xFFF, 2)] = true
      ∧ ∀ a < 0x1000, Memory.read [(0x000, 1), (0xFFF, 2)] a = Memory.read [(0x000, 1), (0xFFF, 2)] a :=
  ⟨by decide, fun _ _ => rfl⟩

theorem witness_CallPushesAndJumps : (spAt 0).val < 16 ∧ (spAt 15).val < 16 ∧ (spAt 16).val = 16 := by
  decide

theorem witness_ReturnPopsIntoPc : 0 < (spAt 1).val ∧ 0 < (spAt 16).val ∧ (spAt 0).val = 0
    ∧ 0 + 1 = (spAt 1).val ∧ 15 + 1 = (spAt 16).val := by decide

theorem witness_CallThenReturnResumes :
    ∃ t b : State, exec (.call 0x300) { State.reset with sp := spAt 15 } = .next t
      ∧ b.sp = t.sp ∧ b.stack = t.stack ∧ b.pc ≠ t.pc :=
  ⟨_, { State.reset with
        pc := 0x302, sp := spAt 16, stack := State.reset.stack.set 15 State.reset.pc },
    rfl, by decide, by decide, by decide⟩

/-- `x` is VF, or it is not: AddSetsCarry, SubSetsNoBorrow, ShiftRightSetsBitOut. -/
theorem witness_flag_clauses : (14 : Nibble) ≠ VF ∧ (0 : Nibble) ≠ VF ∧ (15 : Nibble) = VF := by
  decide

theorem witness_RandomIsMaskedPortByte :
    ∃ t, State.reset.inputs = [] ∧ step (start 0xC00F) = .next t := ⟨_, rfl, rfl⟩

theorem witness_GlyphAddressPointsIntoFont :
    defaultConfig.wf = true ∧ State.reset.mem = (State.powerOn defaultConfig (by decide)).mem
      ∧ ((State.reset.setReg 3 15).reg 3).toNat < 16 := by decide

theorem witness_block_clauses : (0 : Nibble) ≤ 0 ∧ (15 : Nibble) ≤ 15 ∧ ¬ (1 : Nibble) ≤ 0
    ∧ ¬ (15 : Nibble) ≤ 14 := by decide

theorem witness_StoreThenLoadRestoresRegisters :
    ∃ t b : State, exec (.stRegs 1) { State.reset.setReg 1 0x22 with i := 0xFFF } = .next t
      ∧ b.i = 0xFFF ∧ (∀ a, b.mem.read a = t.mem.read a) ∧ b.reg 1 ≠ 0x22 :=
  ⟨_, { State.reset with i := 0xFFF, mem := storeRegisters { State.reset.setReg 1 0x22 with i := 0xFFF } 2 },
    rfl, by decide, fun _ => rfl, by decide⟩

/-- The last word of memory, stored and then fetched. -/
theorem witness_FetchSeesStoredBytes :
    ∃ t b : State, (0 : Nibble) < 1 ∧ exec (.stRegs 1) { State.reset with i := 0xFFE } = .next t
      ∧ (∀ a, b.mem.read a = t.mem.read a) ∧ b.pc.toNat = ea 0xFFE 0 ∧ b.pc.toNat ≤ 0xFFE :=
  ⟨_, { State.reset with pc := 0xFFE, mem := storeRegisters { State.reset with i := 0xFFE } 2 },
    by decide, rfl, fun _ => rfl, by decide, by decide⟩

/-- The glyph of 0 at the corner: covered and not covered pixels, a collision and none. -/
theorem witness_DrawXorsCoveredPixels :
    State.reset.Covers 0 0 5 0 0 ∧ ¬ State.reset.Covers 0 0 0 0 0
      ∧ (Display.blank.flip 0 0).pixel 0 0 = true
      ∧ (∀ cx < 64, ∀ cy < 32, State.reset.disp.pixel cx cy = false) :=
  ⟨⟨0, by decide, 0, by decide, by decide⟩, fun ⟨r, h, _⟩ => Nat.not_lt_zero r h, by decide,
    fun cx _ cy _ => Display.pixel_blank cx cy⟩

theorem witness_DrawTwiceRestoresDisplay :
    (∃ t b : State, exec (.drw 0 0 5) State.reset = .next t ∧ b.disp = t.disp
      ∧ b.i = State.reset.i ∧ b.reg 0 = State.reset.reg 0
      ∧ (∀ a, b.mem.read a = State.reset.mem.read a))
    ∧ (∃ cx < 64, ∃ cy < 32, State.reset.Covers 0 0 5 cx cy)
    ∧ (∀ cx < 64, ∀ cy < 32, ¬ State.reset.Covers 0 0 0 cx cy) :=
  ⟨⟨_, { State.reset with disp := (drawSprite State.reset 0 0 5).disp }, rfl, rfl, rfl, rfl,
      fun _ => rfl⟩,
    ⟨0, by decide, 0, by decide, 0, by decide, 0, by decide, by decide⟩,
    fun _ _ _ _ ⟨r, h, _⟩ => Nat.not_lt_zero r h⟩

theorem witness_KeyTestsSkip : ((State.reset.setReg 0 15).reg 0).toNat ≤ 15
    ∧ 15 < ((State.reset.setReg 0 16).reg 0).toNat ∧ Instr.sknp 0 ∈ [Instr.skp 0, Instr.sknp 0] := by
  decide

theorem witness_KeyWaitStallsOrReports :
    State.reset.keys = 0 ∧ { State.reset with keys := 0x8000 }.keys ≠ 0 := by decide

theorem witness_KeyWaitReportsLowestKey :
    ∃ t, { State.reset with keys := 0x8080 }.keys ≠ 0
      ∧ exec (.ldVxK 1) { State.reset with keys := 0x8080 } = .next t ∧ 6 < (t.reg 1).toNat :=
  ⟨_, by decide, rfl, by decide⟩

/-- One configuration for each reason of refusal, at the value next to a legal one. -/
theorem witness_IllegalConfigurationIsRefused :
    ({ defaultConfig with startAddr := 0x051 }.startAddr).toNat % 2 = 1
      ∧ ({ defaultConfig with startAddr := 0x04E }.startAddr).toNat < 0x050
      ∧ 0xFFE < ({ defaultConfig with startAddr := 0x1000 }.startAddr).toNat
      ∧ { defaultConfig with font := List.replicate 79 0 }.font.length ≠ 80
      ∧ { defaultConfig with font := List.replicate 81 0 }.font.length ≠ 80 := by decide

theorem witness_FullResetClearsProgram :
    highConfig.wf = true ∧ Memory.wf [(0xFFD, 1), (0xFFE, 2)] = true := by decide

/-- The longest image that fits and the shortest that does not. -/
theorem witness_LoadPlacesProgram :
    State.reset.ticked = false ∧ { State.reset with ticked := true }.ticked = true
      ∧ highConfig.startAddr.toNat + [(1 : Byte), 2].length ≤ 0x1000
      ∧ 0x1000 < highConfig.startAddr.toNat + [(1 : Byte), 2, 3].length := by decide

end Sys2Proof.Tests
end

/-!
The dispatcher and the mask and match columns of 30_encoding.md R75. Each of the table's four masks
keeps whole fields of the word, so a row holds exactly when those fields are the row's own; the
dispatcher tests the same fields.
-/

namespace Sys2Proof

variable {w m p : Word} {i : Instr} {r : OpcodeRow}

/-! ### What each mask keeps of a word: the conjunction of two words goes field by field -/

theorem formatA_and (op op' : Nibble) (nnn nnn' : Addr) :
    formatA op nnn &&& formatA op' nnn' = formatA (op &&& op') (nnn &&& nnn') :=
  BitVec.and_append

theorem formatI_and (op x op' x' : Nibble) (kk kk' : Byte) :
    formatI op x kk &&& formatI op' x' kk' = formatI (op &&& op') (x &&& x') (kk &&& kk') :=
  BitVec.and_append.trans (congrArg (· ++ (kk &&& kk')) BitVec.and_append)

theorem formatR_and (op x y n op' x' y' n' : Nibble) :
    formatR op x y n &&& formatR op' x' y' n'
      = formatR (op &&& op') (x &&& x') (y &&& y') (n &&& n') := by
  simp only [formatR_eq_formatI, formatI_and]
  exact congrArg _ BitVec.and_append

theorem and_opMask (w : Word) : w &&& 0xF000 = formatA (fieldOp w) 0#12 := by
  have h : w &&& 0xF000 = formatA (fieldOp w) (fieldNnn w) &&& formatA (.allOnes 4) 0#12 := by
    rw [formatA_fields]; rfl
  rw [h, formatA_and, BitVec.and_allOnes, BitVec.and_zero]

theorem and_opNMask (w : Word) : w &&& 0xF00F = formatR (fieldOp w) 0#4 0#4 (fieldN w) := by
  have h : w &&& 0xF00F = formatR (fieldOp w) (fieldX w) (fieldY w) (fieldN w)
      &&& formatR (.allOnes 4) 0#4 0#4 (.allOnes 4) := by
    rw [formatR_fields]; rfl
  rw [h, formatR_and, BitVec.and_allOnes, BitVec.and_allOnes, BitVec.and_zero, BitVec.and_zero]

theorem and_opKkMask (w : Word) : w &&& 0xF0FF = formatI (fieldOp w) 0#4 (fieldKk w) := by
  have h : w &&& 0xF0FF = formatI (fieldOp w) (fieldX w) (fieldKk w)
      &&& formatI (.allOnes 4) 0#4 (.allOnes 8) := by
    rw [formatI_fields]; rfl
  rw [h, formatI_and, BitVec.and_allOnes, BitVec.and_allOnes, BitVec.and_zero]

/-! ### When a row of each mask holds of a word -/

theorem holds_iff_and_eq_and (hp : p &&& m = p) :
    OpcodeRow.holds ⟨m, p⟩ w = true ↔ w &&& m = p &&& m := by
  rw [hp]; exact beq_iff_eq

theorem holds_iff_eq : OpcodeRow.holds ⟨0xFFFF, p⟩ w = true ↔ w = p := by
  have hmask (v : Word) : v &&& 0xFFFF = v := BitVec.and_allOnes
  rw [holds_iff_and_eq_and (hmask p), hmask, hmask]

theorem holds_iff_op (hp : p &&& 0xF000 = p) :
    OpcodeRow.holds ⟨0xF000, p⟩ w = true ↔ fieldOp w = fieldOp p := by
  rw [holds_iff_and_eq_and hp, and_opMask, and_opMask]
  exact ⟨fun h => by simpa using congrArg fieldOp h, fun h => by rw [h]⟩

theorem holds_iff_op_n (hp : p &&& 0xF00F = p) :
    OpcodeRow.holds ⟨0xF00F, p⟩ w = true ↔ fieldOp w = fieldOp p ∧ fieldN w = fieldN p := by
  rw [holds_iff_and_eq_and hp, and_opNMask, and_opNMask]
  exact ⟨fun h => ⟨by simpa using congrArg fieldOp h, by simpa using congrArg fieldN h⟩,
    fun ⟨hop, hn⟩ => by rw [hop, hn]⟩

theorem holds_iff_op_kk (hp : p &&& 0xF0FF = p) :
    OpcodeRow.holds ⟨0xF0FF, p⟩ w = true ↔ fieldOp w = fieldOp p ∧ fieldKk w = fieldKk p := by
  rw [holds_iff_and_eq_and hp, and_opKkMask, and_opKkMask]
  exact ⟨fun h => ⟨by simpa using congrArg fieldOp h, by simpa using congrArg fieldKk h⟩,
    fun ⟨hop, hkk⟩ => by rw [hop, hkk]⟩

/-! ### A decoded word matches the row of its instruction -/

theorem row_holds_of_decodeGroup8 (hop : fieldOp w = 0x8) (h : decodeGroup8 w = .ok i) :
    i.row.holds w = true := by
  unfold decodeGroup8 at h
  split at h <;> cases h
  all_goals exact (holds_iff_op_n rfl).2 ⟨hop, ‹_›⟩

theorem row_holds_of_decodeGroupE (hop : fieldOp w = 0xE) (h : decodeGroupE w = .ok i) :
    i.row.holds w = true := by
  unfold decodeGroupE at h
  split at h <;> cases h
  all_goals exact (holds_iff_op_kk rfl).2 ⟨hop, ‹_›⟩

theorem row_holds_of_decodeGroupF (hop : fieldOp w = 0xF) (h : decodeGroupF w = .ok i) :
    i.row.holds w = true := by
  unfold decodeGroupF at h
  split at h <;> cases h
  all_goals exact (holds_iff_op_kk rfl).2 ⟨hop, ‹_›⟩

theorem row_holds_of_decode (h : decode w = .ok i) : i.row.holds w = true := by
  by_cases hcls : w = 0x00E0
  · subst hcls; cases h; rfl
  by_cases hret : w = 0x00EE
  · subst hret; cases h; rfl
  rw [decode, if_neg hcls, if_neg hret] at h
  split at h
  -- groups 5 and 9 (`h_5`, `h_9`) also test the low digit; 8, E and F ask their own tables
  case h_5 hop | h_9 hop =>
    split at h <;> cases h
    exact (holds_iff_op_n rfl).2 ⟨hop, ‹_›⟩
  case h_8 hop => exact row_holds_of_decodeGroup8 hop h
  case h_13 hop => exact row_holds_of_decodeGroupE hop h
  case h_14 hop => exact row_holds_of_decodeGroupF hop h
  all_goals cases h
  all_goals exact (holds_iff_op rfl).2 ‹_›

/-! ### A word that matches a row decodes to an instruction of that row -/

/-- Outside group 0 the dispatcher's tests for the two whole words of that group fail. -/
theorem ne_cls_ret_of_op {op : Nibble} (hop : fieldOp w = op) (h0 : op ≠ 0) :
    w ≠ 0x00E0 ∧ w ≠ 0x00EE :=
  ⟨ne_of_apply_ne fieldOp (hop ▸ h0), ne_of_apply_ne fieldOp (hop ▸ h0)⟩

theorem decode_of_op_8 (hop : fieldOp w = 0x8) : decode w = decodeGroup8 w := by
  obtain ⟨hcls, hret⟩ := ne_cls_ret_of_op hop (by decide)
  rw [decode, if_neg hcls, if_neg hret, hop]
  rfl

theorem decode_of_op_E (hop : fieldOp w = 0xE) : decode w = decodeGroupE w := by
  obtain ⟨hcls, hret⟩ := ne_cls_ret_of_op hop (by decide)
  rw [decode, if_neg hcls, if_neg hret, hop]
  rfl

theorem decode_of_op_F (hop : fieldOp w = 0xF) : decode w = decodeGroupF w := by
  obtain ⟨hcls, hret⟩ := ne_cls_ret_of_op hop (by decide)
  rw [decode, if_neg hcls, if_neg hret, hop]
  rfl

theorem exists_decode_of_row_holds (h : i.row.holds w = true) :
    ∃ j, decode w = .ok j ∧ j.row = i.row := by
  cases i with
  | cls | ret =>
    cases holds_iff_eq.1 h
    exact ⟨_, rfl, rfl⟩
  | jp | call | seImm | sneImm | ldImm | addImm | ldI | rnd | drw =>
    have hop := (holds_iff_op rfl).1 h
    obtain ⟨hcls, hret⟩ := ne_cls_ret_of_op hop (by decide)
    rw [decode, if_neg hcls, if_neg hret, hop]
    exact ⟨_, rfl, rfl⟩
  | seReg | sneReg =>
    obtain ⟨hop, hn⟩ := (holds_iff_op_n rfl).1 h
    obtain ⟨hcls, hret⟩ := ne_cls_ret_of_op hop (by decide)
    rw [decode, if_neg hcls, if_neg hret, hop]
    exact ⟨_, if_pos hn, rfl⟩
  | ldReg | orReg | andReg | xorReg | addReg | subReg | shr =>
    obtain ⟨hop, hn⟩ := (holds_iff_op_n rfl).1 h
    rw [decode_of_op_8 hop, decodeGroup8, hn]
    exact ⟨_, rfl, rfl⟩
  | skp | sknp =>
    obtain ⟨hop, hkk⟩ := (holds_iff_op_kk rfl).1 h
    rw [decode_of_op_E hop, decodeGroupE, hkk]
    exact ⟨_, rfl, rfl⟩
  | ldVxDt | ldVxK | ldDtVx | addI | ldF | ldB | stRegs | ldRegs =>
    obtain ⟨hop, hkk⟩ := (holds_iff_op_kk rfl).1 h
    rw [decode_of_op_F hop, decodeGroupF, hkk]
    exact ⟨_, rfl, rfl⟩

/-! ### The map is the rows of the instructions -/

theorem row_mem_opcodeMap (i : Instr) : i.row ∈ opcodeMap := by
  cases i <;> simp [opcodeMap, Instr.row]

theorem exists_row_eq_of_mem_opcodeMap (hr : r ∈ opcodeMap) : ∃ i : Instr, i.row = r := by
  simp only [opcodeMap, ← List.map_append, List.mem_map] at hr
  obtain ⟨i, -, hi⟩ := hr
  exact ⟨i, hi⟩

theorem exists_decode_of_mem_opcodeMap (hr : r ∈ opcodeMap) (h : r.holds w = true) :
    ∃ i, decode w = .ok i ∧ i.row = r := by
  obtain ⟨i, rfl⟩ := exists_row_eq_of_mem_opcodeMap hr
  exact exists_decode_of_row_holds h

/-- Settles O3: a decoded word matches the row of its instruction, and a word that matches a row
decodes to an instruction of that row; two rows that hold of one word are the same row because the
decoder gives the word one instruction. -/
theorem decodeAgreesWithOpcodeMap : Obligations.DecodeAgreesWithOpcodeMap := by
  refine ⟨fun w i h => ⟨row_mem_opcodeMap i, row_holds_of_decode h⟩,
    fun w r hr h => exists_decode_of_mem_opcodeMap hr h, fun w r r' hr hr' h h' => ?_⟩
  obtain ⟨i, hi, rfl⟩ := exists_decode_of_mem_opcodeMap hr h
  obtain ⟨j, hj, rfl⟩ := exists_decode_of_mem_opcodeMap hr' h'
  cases hi.symm.trans hj
  rfl

end Sys2Proof

/-!
Control flow and the stack controller (41_control_flow.md). Each instruction is a composition of
`setPc`, `push`, `pop`, `raise` and `skipIf`; the frame of each of these is proved once, and
frames compose.
-/

namespace Sys2Proof.Machine

/-! ### Frames: what a change of state leaves alone -/

variable {s t u : State} {p : Part} {l l' : List Part}

theorem State.Same.refl (s : State) (p : Part) : s.Same s p := by
  cases p with
  | regs | mem => exact fun _ => rfl
  | host => exact ⟨rfl, rfl, rfl⟩
  | _ => rfl

theorem State.Same.trans (h : s.Same t p) (h' : t.Same u p) : s.Same u p := by
  cases p with
  | regs | mem => exact fun a => (h' a).trans (h a)
  | host =>
    obtain ⟨hi, hd, ht⟩ := h
    obtain ⟨hi', hd', ht'⟩ := h'
    exact ⟨hi'.trans hi, hd'.trans hd, ht'.trans ht⟩
  | _ => exact Eq.trans h' h

theorem State.SameBut.refl (s : State) (l : List Part) : s.SameBut s l :=
  fun p _ => State.Same.refl s p

/-- One change after another touches at most the parts that either touches. -/
theorem State.SameBut.trans (h : s.SameBut t l) (h' : t.SameBut u l') : s.SameBut u (l' ++ l) := by
  intro p hp
  obtain ⟨hp', hp⟩ := not_or.1 (List.mem_append.not.1 hp)
  exact (h p hp).trans (h' p hp')

theorem State.sameBut_setPc (s : State) (a : Word) : s.SameBut (s.setPc a) [.pc] := by
  intro p hp
  cases p with
  | pc => exact absurd List.mem_cons_self hp
  | _ => simp [State.Same]

theorem State.sameBut_push (s : State) (a : Word) (room : s.sp.val < 16) :
    s.SameBut (s.push a room) [.sp, .stack] := by
  intro p hp
  cases p with
  | sp | stack => exact absurd (by decide) hp
  | _ => simp [State.Same]

theorem State.sameBut_pop (s : State) : s.SameBut s.pop [.sp] := by
  intro p hp
  cases p with
  | sp => exact absurd List.mem_cons_self hp
  | _ => simp [State.Same]

theorem State.sameBut_raise (s : State) (c : FaultCode) (i : Instr) :
    s.SameBut (s.raise c i) [.flt, .dirty] := by
  intro p hp
  cases p with
  | flt | dirty => exact absurd (by decide) hp
  | _ => simp [State.Same]

theorem State.sameBut_skipIf (s : State) (c : Bool) : s.SameBut (s.skipIf c) [.pc] := by
  cases c with
  | false => exact State.SameBut.refl s _
  | true => exact s.sameBut_setPc _

/-! ### Jumps and the stack -/

theorem exec_jp (nnn : Addr) (s : State) : exec (.jp nnn) s = .next (s.setPc (zext16 nnn)) := rfl

theorem exec_call_of_room (nnn : Addr) (s : State) (room : s.sp.val < 16) :
    exec (.call nnn) s = .next ((s.push s.pc room).setPc (zext16 nnn)) :=
  dif_pos room

theorem exec_call_of_full (nnn : Addr) (s : State) (full : ¬ s.sp.val < 16) :
    exec (.call nnn) s = .next (s.raise .stackOverflow (.call nnn)) :=
  dif_neg full

theorem exec_ret_of_live (s : State) (live : 0 < s.sp.val) :
    exec .ret s = .next (s.pop.setPc (s.top live)) :=
  dif_pos live

theorem exec_ret_of_empty (s : State) (empty : ¬ 0 < s.sp.val) :
    exec .ret s = .next (s.raise .stackUnderflow .ret) :=
  dif_neg empty

theorem State.getElem_stack_push (s : State) (a : Word) (room : s.sp.val < 16) (k : Nat)
    (hk : k < 16) : (s.push a room).stack[k] = if k = s.sp.val then a else s.stack[k] := by
  simp [Vector.getElem_set, eq_comm]

/-- The top is the slot just below `sp` (41_control_flow.md R101). -/
theorem State.top_eq (s : State) (live : 0 < s.sp.val) (k : Nat) (hk : k < 16)
    (h : k + 1 = s.sp.val) : s.top live = s.stack[k] := by
  simp [State.top, ← h]

/-- Settles O25: with room CALL is a push, then a jump, and the two frames compose; with sp 16
it only raises. -/
theorem callPushesAndJumps : Obligations.CallPushesAndJumps := by
  refine fun s nnn => ⟨fun room => ?_, fun full => ?_⟩
  · exact ⟨_, exec_call_of_room nnn s room, zext16_toNat nnn, rfl,
      s.getElem_stack_push s.pc room, (s.sameBut_push _ room).trans (State.sameBut_setPc _ _)⟩
  · exact ⟨_, exec_call_of_full nnn s (by omega), ⟨_, State.flt_raise s _ _, rfl⟩,
      s.sameBut_raise _ _⟩

/-- Settles O26: with a live slot RET is a pop, then a jump to what was the top; with sp 0 it
only raises. -/
theorem returnPopsIntoPc : Obligations.ReturnPopsIntoPc := by
  refine fun s => ⟨fun live => ?_, fun empty => ?_⟩
  · exact ⟨_, exec_ret_of_live s live, rfl, s.top_eq live,
      s.sameBut_pop.trans (State.sameBut_setPc _ _)⟩
  · exact ⟨_, exec_ret_of_empty s (by omega), ⟨_, State.flt_raise s _ _, rfl⟩,
      s.sameBut_raise _ _⟩

/-! ### Skips -/

theorem exec_seImm (x : Nibble) (kk : Byte) (s : State) :
    exec (.seImm x kk) s = .next (s.skipIf (s.reg x == kk)) := rfl

theorem exec_sneImm (x : Nibble) (kk : Byte) (s : State) :
    exec (.sneImm x kk) s = .next (s.skipIf (s.reg x != kk)) := rfl

theorem exec_seReg (x y : Nibble) (s : State) :
    exec (.seReg x y) s = .next (s.skipIf (s.reg x == s.reg y)) := rfl

theorem exec_sneReg (x y : Nibble) (s : State) :
    exec (.sneReg x y) s = .next (s.skipIf (s.reg x != s.reg y)) := rfl

theorem State.toNat_pc_skipIf (s : State) (c : Bool) :
    (s.skipIf c).pc.toNat = if c then (s.pc.toNat + 2) % 65536 else s.pc.toNat := by
  cases c <;> simp [State.pc_skipIf]

theorem State.toNat_pc_skipIf_beq (s : State) (a b : Byte) : (s.skipIf (a == b)).pc.toNat
    = if a.toNat = b.toNat then (s.pc.toNat + 2) % 65536 else s.pc.toNat := by
  simp only [State.toNat_pc_skipIf, beq_iff_eq, BitVec.toNat_inj]

theorem State.toNat_pc_skipIf_bne (s : State) (a b : Byte) : (s.skipIf (a != b)).pc.toNat
    = if a.toNat ≠ b.toNat then (s.pc.toNat + 2) % 65536 else s.pc.toNat := by
  simp only [State.toNat_pc_skipIf, bne_iff_ne, ne_eq, BitVec.toNat_inj]

/-- Settles O28: each is a `skipIf` on the comparison of the register with `kk`. -/
theorem immediateSkips : Obligations.ImmediateSkips := fun s x kk =>
  ⟨⟨_, exec_seImm x kk s, s.toNat_pc_skipIf_beq _ _, s.sameBut_skipIf _⟩,
    ⟨_, exec_sneImm x kk s, s.toNat_pc_skipIf_bne _ _, s.sameBut_skipIf _⟩⟩

/-- Settles O29: each is a `skipIf` on the comparison of the two registers. -/
theorem registerSkips : Obligations.RegisterSkips := fun s x y =>
  ⟨⟨_, exec_seReg x y s, s.toNat_pc_skipIf_beq _ _, s.sameBut_skipIf _⟩,
    ⟨_, exec_sneReg x y s, s.toNat_pc_skipIf_bne _ _, s.sameBut_skipIf _⟩⟩

/-- Settles O24: JP writes `pc` and nothing else, and widening keeps the target's value. -/
theorem jumpLoadsTarget : Obligations.JumpLoadsTarget := fun s nnn =>
  ⟨_, exec_jp nnn s, zext16_toNat nnn, s.sameBut_setPc _⟩

end Sys2Proof.Machine

/-!
Registers and arithmetic (42_register_alu.md). Each instruction without a flag is one `setReg`;
the frame of `setReg` is proved once.
-/

namespace Sys2Proof.Machine

/-! ### Frames of a register write -/

theorem State.reg_setReg_self (s : State) (x : Nibble) (u : Byte) : (s.setReg x u).reg x = u := by
  rw [State.reg_setReg, if_pos rfl]

theorem State.sameRegsBut_setReg (s : State) (x : Nibble) (u : Byte) :
    s.SameRegsBut (s.setReg x u) [x] := by
  intro z hz
  rw [State.reg_setReg, if_neg (mt List.mem_singleton.2 hz)]

theorem State.sameBut_setReg (s : State) (x : Nibble) (u : Byte) :
    s.SameBut (s.setReg x u) [.regs] := by
  intro p hp
  cases p with
  | regs => exact absurd List.mem_cons_self hp
  | _ => simp [State.Same]

/-! ### Load, copy and add immediate -/

theorem exec_ldImm (x : Nibble) (kk : Byte) (s : State) :
    exec (.ldImm x kk) s = .next (s.setReg x kk) := rfl

theorem exec_addImm (x : Nibble) (kk : Byte) (s : State) :
    exec (.addImm x kk) s = .next (s.setReg x (sumByte (s.reg x) kk)) := rfl

theorem exec_ldReg (x y : Nibble) (s : State) :
    exec (.ldReg x y) s = .next (s.setReg x (s.reg y)) := rfl

/-- Settles O30: each writes `Vx` alone, with `kk`, the sum byte or `Vy`. -/
theorem loadCopyAddImmediate : Obligations.LoadCopyAddImmediate := by
  refine fun s x y kk => ⟨?_, ?_, ?_⟩
  · exact ⟨_, exec_ldImm x kk s, s.reg_setReg_self x _, s.sameRegsBut_setReg x _,
      s.sameBut_setReg x _⟩
  · refine ⟨_, exec_addImm x kk s, ?_, s.sameRegsBut_setReg x _, s.sameBut_setReg x _⟩
    rw [State.reg_setReg_self, sumByte_toNat]
  · exact ⟨_, exec_ldReg x y s, s.reg_setReg_self x _, s.sameRegsBut_setReg x _,
      s.sameBut_setReg x _⟩

/-! ### Or, and, exclusive or -/

theorem exec_orReg (x y : Nibble) (s : State) :
    exec (.orReg x y) s = .next (s.setReg x (s.reg x ||| s.reg y)) := rfl

theorem exec_andReg (x y : Nibble) (s : State) :
    exec (.andReg x y) s = .next (s.setReg x (s.reg x &&& s.reg y)) := rfl

theorem exec_xorReg (x y : Nibble) (s : State) :
    exec (.xorReg x y) s = .next (s.setReg x (s.reg x ^^^ s.reg y)) := rfl

/-- Settles O31: each writes `Vx` alone, with the byte whose bits are the or, the and, the
exclusive or of the two registers' bits. -/
theorem logicWithoutFlag : Obligations.LogicWithoutFlag := by
  refine fun s x y => ⟨?_, ?_, ?_⟩
  · refine ⟨_, exec_orReg x y s, fun k _ => ?_, s.sameRegsBut_setReg x _, s.sameBut_setReg x _⟩
    rw [State.reg_setReg_self, BitVec.getLsbD_or]
  · refine ⟨_, exec_andReg x y s, fun k _ => ?_, s.sameRegsBut_setReg x _, s.sameBut_setReg x _⟩
    rw [State.reg_setReg_self, BitVec.getLsbD_and]
  · refine ⟨_, exec_xorReg x y s, fun k _ => ?_, s.sameRegsBut_setReg x _, s.sameBut_setReg x _⟩
    rw [State.reg_setReg_self, BitVec.getLsbD_xor]

end Sys2Proof.Machine

/-!
The address pointer (43_index_memory.md). An instruction that only moves I is one `setI`, whose
frame is proved once; the value it writes is the operand's or the wrapped sum's.
-/

namespace Sys2Proof.Machine

theorem State.sameBut_setI (s : State) (a : Word) : s.SameBut (s.setI a) [.i] := by
  intro p hp
  cases p with
  | i => exact absurd List.mem_cons_self hp
  | _ => simp [State.Same]

theorem exec_ldI (nnn : Addr) (s : State) : exec (.ldI nnn) s = .next (s.setI (zext16 nnn)) := rfl

theorem exec_addI (x : Nibble) (s : State) :
    exec (.addI x) s = .next (s.setI (advanceI s.i (s.reg x).toNat)) := rfl

/-- Settles O36: each writes I alone, so VF stays; widening keeps `nnn`, and the sum is taken
modulo 4096. -/
theorem indexLoadAndAdd : Obligations.IndexLoadAndAdd := fun s x nnn =>
  ⟨⟨_, exec_ldI nnn s, zext16_toNat nnn, s.sameBut_setI _⟩,
    ⟨_, exec_addI x s, advanceI_toNat s.i _, s.sameBut_setI _⟩⟩

end Sys2Proof.Machine

/-!
The display (44_display.md). An instruction that replaces the display and marks it dirty is one
`setDisp`, whose frame is proved once; what the new display shows is the instruction's own.
-/

namespace Sys2Proof.Machine

theorem State.sameBut_setDisp (s : State) (d : Display) :
    s.SameBut (s.setDisp d) [.disp, .dirty] := by
  intro p hp
  cases p with
  | disp | dirty => exact absurd (by decide) hp
  | _ => simp [State.Same]

theorem exec_cls (s : State) : exec .cls s = .next (s.setDisp Display.blank) := rfl

/-- Settles O43: the new display is the blank one whatever stood there before. -/
theorem clearTurnsEveryPixelOff : Obligations.ClearTurnsEveryPixelOff := fun s =>
  ⟨_, exec_cls s, fun cx _ cy _ => Display.pixel_blank cx cy, s.dirty_setDisp _,
    s.sameBut_setDisp _⟩

end Sys2Proof.Machine

/-!
The encoder against the dispatcher (30_encoding.md sections 2 to 5). Outside group 0 the word of an
instruction is its fields, and the dispatcher tests those fields alone.
-/

namespace Sys2Proof

variable {w : Word} {i : Instr}

/-! ### Decoding an encoded instruction -/

theorem op_encode_ne_zero (hcls : i ≠ .cls) (hret : i ≠ .ret) : fieldOp (encode i) ≠ 0 := by
  cases i with
  | cls => exact absurd rfl hcls
  | ret => exact absurd rfl hret
  | _ => simp [encode]

theorem decode_encode (i : Instr) : decode (encode i) = .ok i := by
  cases i with
  | cls | ret => rfl
  | ldReg | orReg | andReg | xorReg | addReg | subReg | shr =>
    rw [encode, decode_of_op_8 (fieldOp_formatR ..)]
    simp [decodeGroup8]
  | skp | sknp =>
    rw [encode, decode_of_op_E (fieldOp_formatX ..)]
    simp [decodeGroupE]
  | ldVxDt | ldVxK | ldDtVx | addI | ldF | ldB | stRegs | ldRegs =>
    rw [encode, decode_of_op_F (fieldOp_formatX ..)]
    simp [decodeGroupF]
  | _ =>
    rw [decode, if_neg, if_neg]
    · simp [encode]
    all_goals exact ne_of_apply_ne fieldOp (op_encode_ne_zero (by simp) (by simp))

theorem decodeBytes_cons_cons (w : Word) (rest : List Byte) (h : decode w = .ok i) :
    decodeBytes (highByte w :: lowByte w :: rest) = .ok (i, rest) := by
  simp [decodeBytes, h]

/-- Settles O1: the dispatcher tests fields of the word, each of which the encoder set; the two
bytes of a word form the word again. -/
theorem decodeOfEncodeIsInstruction : Obligations.DecodeOfEncodeIsInstruction := fun i _ =>
  ⟨decode_encode i, fun rest => decodeBytes_cons_cons (encode i) rest (decode_encode i)⟩

/-! ### Encoding a decoded word -/

/-! A word whose fields are partly known is that part and its other fields. -/

theorem formatA_of_op {op : Nibble} (hop : fieldOp w = op) : formatA op (fieldNnn w) = w :=
  hop ▸ formatA_fields w

theorem formatI_of_op {op : Nibble} (hop : fieldOp w = op) :
    formatI op (fieldX w) (fieldKk w) = w :=
  hop ▸ formatI_fields w

theorem formatX_of_op_kk {op : Nibble} {fn : Byte} (hop : fieldOp w = op) (hfn : fieldKk w = fn) :
    formatX op (fieldX w) fn = w :=
  hop ▸ hfn ▸ formatI_fields w

theorem formatR_of_op_n {op n : Nibble} (hop : fieldOp w = op) (hn : fieldN w = n) :
    formatR op (fieldX w) (fieldY w) n = w :=
  hop ▸ hn ▸ formatR_fields w

theorem encode_of_decodeGroup8 (hop : fieldOp w = 0x8) (h : decodeGroup8 w = .ok i) :
    encode i = w := by
  unfold decodeGroup8 at h
  split at h <;> cases h
  all_goals exact formatR_of_op_n hop ‹_›

theorem encode_of_decodeGroupE (hop : fieldOp w = 0xE) (h : decodeGroupE w = .ok i) :
    encode i = w := by
  unfold decodeGroupE at h
  split at h <;> cases h
  all_goals exact formatX_of_op_kk hop ‹_›

theorem encode_of_decodeGroupF (hop : fieldOp w = 0xF) (h : decodeGroupF w = .ok i) :
    encode i = w := by
  unfold decodeGroupF at h
  split at h <;> cases h
  all_goals exact formatX_of_op_kk hop ‹_›

theorem encode_of_decode (h : decode w = .ok i) : encode i = w := by
  by_cases hcls : w = 0x00E0
  · subst hcls; cases h; rfl
  by_cases hret : w = 0x00EE
  · subst hret; cases h; rfl
  rw [decode, if_neg hcls, if_neg hret] at h
  split at h
  -- one case per group: those of format A, of format I, with a low digit tested, of format D
  case h_1 hop | h_2 hop | h_10 hop => cases h; exact formatA_of_op hop
  case h_3 hop | h_4 hop | h_6 hop | h_7 hop | h_11 hop => cases h; exact formatI_of_op hop
  case h_5 hop | h_9 hop =>
    split at h <;> cases h
    exact formatR_of_op_n hop ‹_›
  case h_12 hop => cases h; exact formatR_of_op_n hop rfl
  case h_8 hop => exact encode_of_decodeGroup8 hop h
  case h_13 hop => exact encode_of_decodeGroupE hop h
  case h_14 hop => exact encode_of_decodeGroupF hop h
  case h_15 => cases h

/-- Settles O2: the dispatcher reads every field of the word into an operand or has tested its
value. -/
theorem encodeOfDecodedWordIsWord : Obligations.EncodeOfDecodedWordIsWord :=
  fun _ _ h => encode_of_decode h

/-! ### The unknown words -/

/-- The decoder has no other answer: an instruction, or the name of the word itself. -/
theorem decode_ok_or_unknown (w : Word) :
    (∃ i, decode w = .ok i) ∨ decode w = .error (.unknownOpcode w) := by
  unfold decode decodeGroup8 decodeGroupE decodeGroupF
  repeat' split
  all_goals simp

theorem decodeGroup8_eq_error_iff :
    decodeGroup8 w = .error (.unknownOpcode w) ↔ 7 ≤ (fieldN w).toNat := by
  unfold decodeGroup8
  split
  case h_8 h0 h1 h2 h3 h4 h5 h6 =>
    have above : ∀ n : Nibble, n ≠ 0 → n ≠ 1 → n ≠ 2 → n ≠ 3 → n ≠ 4 → n ≠ 5 → n ≠ 6 →
        7 ≤ n.toNat := by intros; bv_omega
    exact iff_of_true rfl (above _ h0 h1 h2 h3 h4 h5 h6)
  all_goals rename_i hn; simp [hn]

theorem decodeGroupE_eq_error_iff :
    decodeGroupE w = .error (.unknownOpcode w) ↔ fieldKk w ≠ 0x9E ∧ fieldKk w ≠ 0xA1 := by
  unfold decodeGroupE
  split
  case h_3 hskp hsknp => exact iff_of_true rfl ⟨hskp, hsknp⟩
  all_goals rename_i hkk; simp [hkk]

theorem decodeGroupF_eq_error_iff :
    decodeGroupF w = .error (.unknownOpcode w) ↔
      ∀ f ∈ [0x07, 0x0A, 0x15, 0x1E, 0x29, 0x33, 0x55, 0x65], fieldKk w ≠ BitVec.ofNat 8 f := by
  unfold decodeGroupF
  split
  case h_9 => simp_all
  all_goals rename_i hkk; simp [hkk]

/-- Settles O4: the decoder has two answers, and in each group the test that it makes is the
table's. -/
theorem unknownWordsByGroup : Obligations.UnknownWordsByGroup := by
  refine fun w => ⟨decode_ok_or_unknown w, ?_⟩
  by_cases hcls : w = 0x00E0
  · subst hcls; decide
  by_cases hret : w = 0x00EE
  · subst hret; decide
  rw [decode, if_neg hcls, if_neg hret]
  split
  case h_8 hop => simp [hop, decodeGroup8_eq_error_iff]
  case h_13 hop => simp [hop, decodeGroupE_eq_error_iff]
  case h_14 hop => rw [decodeGroupF_eq_error_iff]; simp [hop]
  case h_15 h1 h2 h3 h4 h5 h6 h7 h8 h9 hA hC hD hE hF =>
    have rest : ∀ op : Nibble, op ≠ 1 → op ≠ 2 → op ≠ 3 → op ≠ 4 → op ≠ 5 → op ≠ 6 → op ≠ 7 →
        op ≠ 8 → op ≠ 9 → op ≠ 0xA → op ≠ 0xC → op ≠ 0xD → op ≠ 0xE → op ≠ 0xF →
        op = 0 ∨ op = 0xB := by decide
    rcases rest _ h1 h2 h3 h4 h5 h6 h7 h8 h9 hA hC hD hE hF with hop | hop
    · exact iff_of_true rfl (.inl ⟨hop, hcls, hret⟩)
    · simp [hop]
  all_goals rename_i hop; simp [hop]

/-- Settles O5: each word, by running the decoder on its two bytes. -/
theorem decodeOfWrittenWords : Obligations.DecodeOfWrittenWords := by
  unfold Obligations.DecodeOfWrittenWords; decide

end Sys2Proof

/-!
What each instruction answers, writes and reads. An instruction either raises the one cause that it
has in the state, or completes; then it is a composition of the named operations, whose frames
compose.
-/

namespace Sys2Proof.Machine

variable {s t : State} {i : Instr} {c : FaultCode} {l l' : List Part}

/-! ### Frames of the other operations -/

theorem State.SameBut.mono (h : s.SameBut t l) (hl : l ⊆ l') : s.SameBut t l' :=
  fun p hp => h p fun hm => hp (hl hm)

theorem State.sameBut_setMem (s : State) (m : Memory) : s.SameBut (s.setMem m) [.mem] := by
  intro p hp
  cases p with
  | mem => exact absurd List.mem_cons_self hp
  | _ => simp [State.Same]

theorem State.sameBut_setDt (s : State) (u : Byte) : s.SameBut (s.setDt u) [.dt] := by
  intro p hp
  cases p with
  | dt => exact absurd List.mem_cons_self hp
  | _ => simp [State.Same]

theorem State.sameBut_setRegFlag (s : State) (x : Nibble) (u : Byte) (f : Bool) :
    s.SameBut (s.setRegFlag x u f) [.regs] :=
  ((s.sameBut_setReg x u).trans (State.sameBut_setReg _ _ _)).mono (by decide)

theorem sameBut_loadRegisters (s : State) (n : Nat) : s.SameBut (loadRegisters s n) [.regs] := by
  induction n with
  | zero => exact State.SameBut.refl s _
  | succ n ih => exact (ih.trans (State.sameBut_setReg _ _ _)).mono (by decide)

/-! ### What the other instructions answer -/

theorem exec_addReg (x y : Nibble) (s : State) : exec (.addReg x y) s
    = .next (s.setRegFlag x (sumByte (s.reg x) (s.reg y)) (carry (s.reg x) (s.reg y))) := rfl

theorem exec_subReg (x y : Nibble) (s : State) : exec (.subReg x y) s
    = .next (s.setRegFlag x (differenceByte (s.reg x) (s.reg y)) (noBorrow (s.reg x) (s.reg y))) :=
  rfl

theorem exec_shr (x y : Nibble) (s : State) : exec (.shr x y) s
    = .next (s.setRegFlag x (shiftedByte (s.reg y)) (shiftedOut (s.reg y))) := rfl

theorem exec_rnd (x : Nibble) (kk : Byte) (s : State) :
    exec (.rnd x kk) s = .next (s.setReg x (s.rnd &&& kk)) := rfl

theorem exec_drw (x y n : Nibble) (s : State) : exec (.drw x y n) s
    = .next ((s.setDisp (drawSprite s x y n).disp).setReg VF (flagByte (drawSprite s x y n).coll)) :=
  rfl

theorem exec_ldF (x : Nibble) (s : State) :
    exec (.ldF x) s = .next (s.setI (glyphAddr (s.reg x))) := rfl

theorem exec_stRegs (x : Nibble) (s : State) :
    exec (.stRegs x) s = .next (s.setMem (storeRegisters s (x.toNat + 1))) := rfl

theorem exec_ldRegs (x : Nibble) (s : State) : exec (.ldRegs x) s
    = .next ((loadRegisters s (x.toNat + 1)).setI (advanceI s.i (x.toNat + 1))) := rfl

theorem exec_ldVxDt (x : Nibble) (s : State) : exec (.ldVxDt x) s = .next (s.setReg x s.dt) := rfl

theorem exec_ldDtVx (x : Nibble) (s : State) : exec (.ldDtVx x) s = .next (s.setDt (s.reg x)) := rfl

theorem exec_skp_of_above (x : Nibble) (s : State) (h : 15 < (s.reg x).toNat) :
    exec (.skp x) s = .next (s.raise .keyIndexOutOfRange (.skp x)) :=
  if_pos h

theorem exec_skp_of_key (x : Nibble) (s : State) (h : ¬ 15 < (s.reg x).toNat) :
    exec (.skp x) s = .next (s.skipIf (keyPressed s.keys (s.reg x))) :=
  if_neg h

theorem exec_sknp_of_above (x : Nibble) (s : State) (h : 15 < (s.reg x).toNat) :
    exec (.sknp x) s = .next (s.raise .keyIndexOutOfRange (.sknp x)) :=
  if_pos h

theorem exec_sknp_of_key (x : Nibble) (s : State) (h : ¬ 15 < (s.reg x).toNat) :
    exec (.sknp x) s = .next (s.skipIf (!keyPressed s.keys (s.reg x))) :=
  if_neg h

theorem exec_ldVxK_of_none (x : Nibble) (s : State) (h : s.keys = 0) :
    exec (.ldVxK x) s = .next (s.setPc s.pc0) :=
  if_pos h

theorem exec_ldVxK_of_pressed (x : Nibble) (s : State) (h : s.keys ≠ 0) :
    exec (.ldVxK x) s = .next (s.setReg x (keySelect s.keys)) :=
  if_neg h

/-! ### Faulting and completing -/

/-- The cause for which the instruction faults in the state (60_exceptions.md R162, R163, R165):
that it is the only way to fault is `exec_of_faultCause` and `sameBut_of_completes`. -/
def faultCause (i : Instr) (s : State) : Option FaultCode :=
  match i with
  | .ret => if 0 < s.sp.val then none else some .stackUnderflow
  | .call _ => if s.sp.val < 16 then none else some .stackOverflow
  | .skp x | .sknp x => if 15 < (s.reg x).toNat then some .keyIndexOutOfRange else none
  | _ => none

theorem faultCause_ret_eq_none : faultCause .ret s = none ↔ 0 < s.sp.val := by
  simp [faultCause]

theorem faultCause_call_eq_none {nnn : Addr} : faultCause (.call nnn) s = none ↔ s.sp.val < 16 := by
  simp [faultCause]

theorem faultCause_skp_eq_none {x : Nibble} :
    faultCause (.skp x) s = none ↔ ¬ 15 < (s.reg x).toNat := by
  simp [faultCause]

theorem faultCause_sknp_eq_none {x : Nibble} :
    faultCause (.sknp x) s = none ↔ ¬ 15 < (s.reg x).toNat := by
  simp [faultCause]

/-- The three causes of step 3, each with its instructions. -/
theorem faultCause_eq_some_iff : faultCause i s = some c ↔
    ((∃ nnn, i = .call nnn) ∧ s.sp.val = 16 ∧ c = .stackOverflow)
      ∨ (i = .ret ∧ s.sp.val = 0 ∧ c = .stackUnderflow)
      ∨ ((∃ x, (i = .skp x ∨ i = .sknp x) ∧ 15 < (s.reg x).toNat) ∧ c = .keyIndexOutOfRange) := by
  have hsp : s.sp.val < 16 ↔ s.sp.val ≠ 16 := by omega
  cases i with
  | ret | call | skp | sknp => simp [faultCause, hsp, eq_comm]
  | _ => simp [faultCause]

theorem exec_of_faultCause (h : faultCause i s = some c) :
    exec i s = .next (s.raise c i) := by
  rcases faultCause_eq_some_iff.1 h with
    ⟨⟨nnn, rfl⟩, hsp, rfl⟩ | ⟨rfl, hsp, rfl⟩ | ⟨⟨x, rfl | rfl, hx⟩, rfl⟩
  · exact exec_call_of_full nnn s (by omega)
  · exact exec_ret_of_empty s (by omega)
  · exact exec_skp_of_above x s hx
  · exact exec_sknp_of_above x s hx

/-- The pieces of state that an instruction may write when it completes. -/
def completedWrites : Instr → List Part
  | .ret => [.pc, .sp]
  | .call _ => [.pc, .sp, .stack]
  | .skp _ | .sknp _ => [.pc]
  | i => i.writes

theorem completedWrites_subset (i : Instr) : completedWrites i ⊆ i.writes := by
  cases i <;> simp [completedWrites, Instr.writes]

theorem latch_subset_writes (h : faultCause i s = some c) : [.flt, .dirty] ⊆ i.writes := by
  rcases faultCause_eq_some_iff.1 h with ⟨⟨nnn, rfl⟩, -⟩ | ⟨rfl, -⟩ | ⟨⟨x, rfl | rfl, -⟩, -⟩ <;>
    simp [Instr.writes]

/-- An instruction with no cause to fault completes, and writes only its own. -/
theorem sameBut_of_completes (hc : faultCause i s = none) (h : exec i s = .next t) :
    s.SameBut t (completedWrites i) := by
  cases i with
  | cls => cases h; exact s.sameBut_setDisp _
  | ret =>
    cases (exec_ret_of_live s (faultCause_ret_eq_none.1 hc)).symm.trans h
    exact s.sameBut_pop.trans (State.sameBut_setPc _ _)
  | jp => cases h; exact s.sameBut_setPc _
  | call nnn =>
    cases (exec_call_of_room nnn s (faultCause_call_eq_none.1 hc)).symm.trans h
    exact (s.sameBut_push _ _).trans (State.sameBut_setPc _ _)
  | seImm | sneImm | seReg | sneReg => cases h; exact s.sameBut_skipIf _
  | ldImm | addImm | ldReg | orReg | andReg | xorReg | rnd | ldVxDt =>
    cases h; exact s.sameBut_setReg _ _
  | addReg | subReg | shr => cases h; exact s.sameBut_setRegFlag _ _ _
  | ldI | addI | ldF => cases h; exact s.sameBut_setI _
  | drw =>
    cases h
    exact ((s.sameBut_setDisp _).trans (State.sameBut_setReg _ _ _)).mono
      (by simp [completedWrites, Instr.writes])
  | skp x =>
    cases (exec_skp_of_key x s (faultCause_skp_eq_none.1 hc)).symm.trans h
    exact s.sameBut_skipIf _
  | sknp x =>
    cases (exec_sknp_of_key x s (faultCause_sknp_eq_none.1 hc)).symm.trans h
    exact s.sameBut_skipIf _
  | ldVxK x =>
    by_cases hk : s.keys = 0
    · cases (exec_ldVxK_of_none x s hk).symm.trans h
      exact (s.sameBut_setPc _).mono (by simp [completedWrites, Instr.writes])
    · cases (exec_ldVxK_of_pressed x s hk).symm.trans h
      exact (s.sameBut_setReg _ _).mono (by simp [completedWrites, Instr.writes])
  | ldDtVx => cases h; exact s.sameBut_setDt _
  | ldB | stRegs => cases h; exact s.sameBut_setMem _
  | ldRegs =>
    cases h
    exact ((sameBut_loadRegisters s _).trans (State.sameBut_setI _ _)).mono
      (by simp [completedWrites, Instr.writes])

theorem exists_exec_eq_next (i : Instr) (s : State) : ∃ t, exec i s = .next t := by
  cases hc : faultCause i s with
  | some c => exact ⟨_, exec_of_faultCause hc⟩
  | none =>
    cases i with
    | ret => exact ⟨_, exec_ret_of_live s (faultCause_ret_eq_none.1 hc)⟩
    | call nnn => exact ⟨_, exec_call_of_room nnn s (faultCause_call_eq_none.1 hc)⟩
    | skp x => exact ⟨_, exec_skp_of_key x s (faultCause_skp_eq_none.1 hc)⟩
    | sknp x => exact ⟨_, exec_sknp_of_key x s (faultCause_sknp_eq_none.1 hc)⟩
    | ldVxK x =>
      by_cases hk : s.keys = 0
      · exact ⟨_, exec_ldVxK_of_none x s hk⟩
      · exact ⟨_, exec_ldVxK_of_pressed x s hk⟩
    | _ => exact ⟨_, rfl⟩

/-! ### Who writes what -/

theorem sameBut_writes (h : exec i s = .next t) : s.SameBut t i.writes := by
  cases hc : faultCause i s with
  | some c =>
    cases (exec_of_faultCause hc).symm.trans h
    exact (s.sameBut_raise c i).mono (latch_subset_writes hc)
  | none => exact (sameBut_of_completes hc h).mono (completedWrites_subset i)

theorem reg_eq_of_not_writesReg {z : Nibble} (h : exec i s = .next t)
    (hz : i.writesReg z = false) : t.reg z = s.reg z := by
  cases i with
  | ldImm | addImm | ldReg | orReg | andReg | xorReg | rnd | ldVxDt =>
    cases h
    rw [State.reg_setReg, if_neg (beq_eq_false_iff_ne.1 hz)]
  | addReg | subReg | shr =>
    cases h
    obtain ⟨hx, hvf⟩ := Bool.or_eq_false_iff.1 hz
    rw [State.reg_setRegFlag, if_neg (beq_eq_false_iff_ne.1 hvf), if_neg (beq_eq_false_iff_ne.1 hx)]
  | drw =>
    cases h
    rw [State.reg_setReg, if_neg (beq_eq_false_iff_ne.1 hz), State.reg_setDisp]
  | ldVxK x =>
    by_cases hk : s.keys = 0
    · cases (exec_ldVxK_of_none x s hk).symm.trans h
      rfl
    · cases (exec_ldVxK_of_pressed x s hk).symm.trans h
      rw [State.reg_setReg, if_neg (beq_eq_false_iff_ne.1 hz)]
  | ldRegs x =>
    cases h
    have hx : ¬ z.toNat < x.toNat + 1 := fun hlt =>
      of_decide_eq_false hz (BitVec.le_def.2 (Nat.le_of_lt_succ hlt))
    rw [State.reg_setI, reg_loadRegisters s _ x.isLt, if_neg hx]
  | _ => exact sameBut_writes h .regs (by simp [Instr.writes]) z

/-- Settles O20: a fault writes the latch and dirty alone; an instruction that completes is a
composition of operations, whose frames compose. -/
theorem instructionsWriteOnlyTheirOwn : Obligations.InstructionsWriteOnlyTheirOwn :=
  fun _ _ _ h => ⟨sameBut_writes h, fun _ hz => reg_eq_of_not_writesReg h hz⟩

/-! ### Who reads the ports -/

/-- The same state with other values on the two input ports. -/
def State.mapPorts (κ : BitVec 16 → BitVec 16) (ρ : Byte → Byte) (s : State) : State :=
  { s with keys := κ s.keys, rnd := ρ s.rnd }

variable {κ : BitVec 16 → BitVec 16} {ρ : Byte → Byte}

theorem skipIf_mapPorts (s : State) (b : Bool) :
    (s.mapPorts κ ρ).skipIf b = (s.skipIf b).mapPorts κ ρ := by
  cases b <;> rfl

theorem storeRegisters_mapPorts (s : State) (n : Nat) :
    storeRegisters (s.mapPorts κ ρ) n = storeRegisters s n := by
  induction n with
  | zero => rfl
  | succ n ih => rw [storeRegisters, ih]; rfl

theorem loadRegisters_mapPorts (s : State) (n : Nat) :
    loadRegisters (s.mapPorts κ ρ) n = (loadRegisters s n).mapPorts κ ρ := by
  induction n with
  | zero => rfl
  | succ n ih => rw [loadRegisters, ih]; rfl

/-- An instruction runs alike under other values on a port that it does not read. -/
theorem exec_mapPorts (s : State)
    (hkeys : κ = id ∨ (∀ x, i ≠ .skp x) ∧ (∀ x, i ≠ .sknp x) ∧ ∀ x, i ≠ .ldVxK x)
    (hrnd : ρ = id ∨ ∀ x kk, i ≠ .rnd x kk) :
    exec i (s.mapPorts κ ρ) = onNext (State.mapPorts κ ρ) (exec i s) := by
  cases i with
  | ret =>
    by_cases live : 0 < s.sp.val
    · rw [exec_ret_of_live s live]; exact exec_ret_of_live (s.mapPorts κ ρ) live
    · rw [exec_ret_of_empty s live]; exact exec_ret_of_empty (s.mapPorts κ ρ) live
  | call nnn =>
    by_cases room : s.sp.val < 16
    · rw [exec_call_of_room nnn s room]; exact exec_call_of_room nnn (s.mapPorts κ ρ) room
    · rw [exec_call_of_full nnn s room]; exact exec_call_of_full nnn (s.mapPorts κ ρ) room
  | seImm | sneImm | seReg | sneReg => exact congrArg _ (skipIf_mapPorts s _)
  | skp x =>
    obtain rfl := hkeys.resolve_right fun h => h.1 x rfl
    by_cases hx : 15 < (s.reg x).toNat
    · rw [exec_skp_of_above x s hx]; exact exec_skp_of_above x (s.mapPorts id ρ) hx
    · rw [exec_skp_of_key x s hx, onNext_next, ← skipIf_mapPorts]
      exact exec_skp_of_key x (s.mapPorts id ρ) hx
  | sknp x =>
    obtain rfl := hkeys.resolve_right fun h => h.2.1 x rfl
    by_cases hx : 15 < (s.reg x).toNat
    · rw [exec_sknp_of_above x s hx]; exact exec_sknp_of_above x (s.mapPorts id ρ) hx
    · rw [exec_sknp_of_key x s hx, onNext_next, ← skipIf_mapPorts]
      exact exec_sknp_of_key x (s.mapPorts id ρ) hx
  | ldVxK x =>
    obtain rfl := hkeys.resolve_right fun h => h.2.2 x rfl
    by_cases hk : s.keys = 0
    · rw [exec_ldVxK_of_none x s hk]; exact exec_ldVxK_of_none x (s.mapPorts id ρ) hk
    · rw [exec_ldVxK_of_pressed x s hk]; exact exec_ldVxK_of_pressed x (s.mapPorts id ρ) hk
  | rnd x kk =>
    obtain rfl := hrnd.resolve_right fun h => h x kk rfl
    rfl
  | stRegs x => rw [exec_stRegs, storeRegisters_mapPorts]; rfl
  | ldRegs x => rw [exec_ldRegs, loadRegisters_mapPorts]; rfl
  | _ => rfl

/-- Settles O21: every other instruction runs alike under other keys, with the random port kept. -/
theorem onlyKeyInstructionsReadKeys : Obligations.OnlyKeyInstructionsReadKeys :=
  fun _ s k hskp hsknp hk =>
    exec_mapPorts (κ := fun _ => k) (ρ := id) s (.inr ⟨hskp, hsknp, hk⟩) (.inl rfl)

/-- Settles O22: every other instruction runs alike under another random byte, with the keys kept. -/
theorem onlyRndReadsRandomPort : Obligations.OnlyRndReadsRandomPort :=
  fun _ s u hrnd => exec_mapPorts (κ := id) (ρ := fun _ => u) s (.inl rfl) (.inr hrnd)

end Sys2Proof.Machine

/-!
The tick (40_tick_cycle.md R97, 60_exceptions.md). A step takes one of five ways, `Ticked`; each
statement about every step is a case analysis over them.
-/

namespace Sys2Proof.Machine

variable {s t : State} {i : Instr} {c : FaultCode} {e : Reject}

/-! ### The five ways of a step -/

theorem onNext_onNext (f g : State → State) (r : Result) :
    onNext g (onNext f r) = onNext (fun u => g (f u)) r := by
  cases r <;> rfl

theorem step_of_latched (hf : s.flt ≠ none) : step s = .next s.halted.nextInputs := by
  simp [step, tick, Option.isSome_iff_ne_none.2 hf]

theorem step_of_outside (hf : s.flt = none) (hpc : 0xFFE < s.pc.toNat) :
    step s = .next s.fetchFault.nextInputs := by
  simp [step, tick, State.fetchable, hf, Nat.not_le.2 hpc]

theorem step_of_unknown (hf : s.flt = none) (hpc : s.pc.toNat ≤ 0xFFE)
    (hd : decode s.fetchWord = .error e) :
    step s = .next (s.unsupported s.fetchWord).nextInputs := by
  simp [step, tick, State.fetchable, hf, hpc, hd]

theorem step_of_decoded (hf : s.flt = none) (hpc : s.pc.toNat ≤ 0xFFE)
    (hd : decode s.fetchWord = .ok i) :
    step s = onNext (fun t => t.countTimers.nextInputs) (exec i s.advance) := by
  simp [step, tick, State.fetchable, hf, hpc, hd, onNext_onNext]

/-- Settles O6: the word at `pc` is the two bytes that the statement writes out. -/
theorem stepRunsDecodedInstruction : Obligations.StepRunsDecodedInstruction :=
  fun _ _ hf hpc hd => step_of_decoded hf hpc hd

@[simp] theorem pc0_advance (s : State) : s.advance.pc0 = s.pc := BitVec.add_sub_cancel _ _

theorem faultCause_advance (i : Instr) (s : State) : faultCause i s.advance = faultCause i s := by
  cases i <;> rfl

/-- A tick that faults counts no timer (60_exceptions.md R170). -/
theorem countTimers_raise (s : State) (c : FaultCode) (i : Instr) :
    (s.raise c i).countTimers = s.raise c i := rfl

/-- The ways of a step from `s`, each with the next state. -/
inductive Ticked (s : State) : State → Prop
  /-- The core is halted (R90). -/
  | latched (hf : s.flt ≠ none) : Ticked s s.halted.nextInputs
  /-- The word is not inside memory (60_exceptions.md R164). -/
  | outside (hf : s.flt = none) (hpc : 0xFFE < s.pc.toNat) : Ticked s s.fetchFault.nextInputs
  /-- The word is unknown (60_exceptions.md R161). -/
  | unknown (e : Reject) (hf : s.flt = none) (hpc : s.pc.toNat ≤ 0xFFE)
      (hd : decode s.fetchWord = .error e) : Ticked s (s.unsupported s.fetchWord).nextInputs
  /-- The instruction faults (60_exceptions.md R162, R163, R165). -/
  | faulted (i : Instr) (c : FaultCode) (hf : s.flt = none) (hpc : s.pc.toNat ≤ 0xFFE)
      (hd : decode s.fetchWord = .ok i) (hc : faultCause i s = some c) :
      Ticked s (s.advance.raise c i).nextInputs
  /-- The instruction completes (R92), and the timers count (R93). -/
  | completed (i : Instr) (u : State) (hf : s.flt = none) (hpc : s.pc.toNat ≤ 0xFFE)
      (hd : decode s.fetchWord = .ok i) (hc : faultCause i s = none)
      (hu : exec i s.advance = .next u) : Ticked s u.countTimers.nextInputs

theorem ticked_of_step (h : step s = .next t) : Ticked s t := by
  by_cases hf : s.flt = none
  case neg => cases (step_of_latched hf).symm.trans h; exact .latched hf
  by_cases hpc : s.pc.toNat ≤ 0xFFE
  case neg =>
    have hpc := Nat.lt_of_not_le hpc
    cases (step_of_outside hf hpc).symm.trans h
    exact .outside hf hpc
  cases hd : decode s.fetchWord with
  | error e => cases (step_of_unknown hf hpc hd).symm.trans h; exact .unknown e hf hpc hd
  | ok i =>
    obtain ⟨u, hu, rfl⟩ := onNext_eq_next ((step_of_decoded hf hpc hd).symm.trans h)
    cases hc : faultCause i s with
    | none => exact .completed i u hf hpc hd hc hu
    | some c =>
      rw [← faultCause_advance] at hc
      cases (exec_of_faultCause hc).symm.trans hu
      rw [faultCause_advance] at hc
      rw [countTimers_raise]
      exact .faulted i c hf hpc hd hc

/-- Settles O7: a halted core, a fetch outside memory and an unknown word answer a next state, and
so does every instruction. -/
theorem everyTickAnswersNext : Obligations.EveryTickAnswersNext := by
  intro s
  by_cases hf : s.flt = none
  case neg => exact ⟨_, step_of_latched hf⟩
  by_cases hpc : s.pc.toNat ≤ 0xFFE
  case neg => exact ⟨_, step_of_outside hf (Nat.lt_of_not_le hpc)⟩
  cases hd : decode s.fetchWord with
  | error e => exact ⟨_, step_of_unknown hf hpc hd⟩
  | ok i =>
    obtain ⟨u, hu⟩ := exists_exec_eq_next i s.advance
    exact ⟨_, by rw [step_of_decoded hf hpc hd, hu, onNext_next]⟩

/-! ### Frames of what a tick does around the instruction -/

theorem State.sameBut_advance (s : State) : s.SameBut s.advance [.pc, .dirty] := by
  intro p hp
  cases p with
  | pc | dirty => exact absurd (by decide) hp
  | _ => simp [State.Same]

theorem State.sameBut_halted (s : State) : s.SameBut s.halted [.dirty] := by
  intro p hp
  cases p with
  | dirty => exact absurd (by decide) hp
  | _ => simp [State.Same]

theorem State.sameBut_takeFault (s : State) (c : FaultCode) (a w : Word) :
    s.SameBut (s.takeFault c a w) [.flt, .dirty] := by
  intro p hp
  cases p with
  | flt | dirty => exact absurd (by decide) hp
  | _ => simp [State.Same]

theorem State.sameBut_unsupported (s : State) (w : Word) :
    s.SameBut (s.unsupported w) [.pc, .flt, .dirty] :=
  (s.sameBut_advance.trans (State.sameBut_takeFault _ _ _ _)).mono (by decide)

theorem State.sameBut_countTimers (s : State) : s.SameBut s.countTimers [.dt, .st] := by
  intro p hp
  cases p with
  | dt | st => exact absurd (by decide) hp
  | _ => simp [State.Same]

theorem State.sameBut_nextInputs (s : State) :
    s.SameBut s.nextInputs [.keys, .rnd, .host] := by
  intro p hp
  cases p with
  | keys | rnd | host => exact absurd (by decide) hp
  | _ => simp [State.Same]

/-! ### Faults (60_exceptions.md) -/

theorem toNat_add_two {a : Word} (h : a.toNat ≤ 0xFFE) : (a + 2).toNat = a.toNat + 2 := by
  bv_omega

/-- Settles O8: the tick of an unknown word is `unsupported`, then the ports. -/
theorem unknownWordIsLatched : Obligations.UnknownWordIsLatched := fun s _ hf hpc hd =>
  ⟨_, step_of_unknown hf hpc hd, by simp, by simpa using toNat_add_two hpc, by simp,
    ((s.sameBut_unsupported _).trans (State.sameBut_nextInputs _)).mono (by decide)⟩

/-- Settles O9: the tick of a fetch outside memory is `fetchFault`, then the ports. -/
theorem fetchOutsideMemoryIsLatched : Obligations.FetchOutsideMemoryIsLatched := fun s hf hpc =>
  ⟨_, step_of_outside hf hpc, by simp, by simp,
    ((s.sameBut_takeFault _ _ _).trans (State.sameBut_nextInputs _)).mono (by decide)⟩

/-- Settles O10: the tick of a halted core is `halted`, then the ports. -/
theorem faultedCoreIsFrozen : Obligations.FaultedCoreIsFrozen := fun s hf =>
  ⟨_, step_of_latched hf, by simp, (s.sameBut_halted.trans (State.sameBut_nextInputs _)).mono
    (by decide)⟩

/-- A completed instruction leaves the latch as it was. -/
theorem flt_of_completes {u : State} (hf : s.flt = none) (hc : faultCause i s = none)
    (hu : exec i s.advance = .next u) : u.flt = none := by
  rw [← faultCause_advance] at hc
  have hflt : Part.flt ∉ completedWrites i := by
    cases i <;> simp [completedWrites, Instr.writes]
  exact Eq.trans (sameBut_of_completes hc hu .flt hflt) hf

/-- After a step whose word decodes, the latch holds the instruction's cause, if it has one. -/
theorem flt_of_step_decoded (hf : s.flt = none) (hpc : s.pc.toNat ≤ 0xFFE)
    (hd : decode s.fetchWord = .ok i) (h : step s = .next t) :
    t.flt = (faultCause i s).map fun c => ⟨c, s.pc, s.fetchWord⟩ := by
  cases ticked_of_step h with
  | latched hf' => exact absurd hf hf'
  | outside _ hpc' => omega
  | unknown _ _ _ hd' => cases hd.symm.trans hd'
  | faulted j c _ _ hd' hc =>
    cases hd.symm.trans hd'
    simp [hc, encode_of_decode hd]
  | completed j u _ _ hd' hc hu =>
    cases hd.symm.trans hd'
    simp [hc, flt_of_completes hf hc hu]

/-- Settles O11: each way of a step leaves its own record in the latch, and the causes of step 3
are those of `faultCause`. -/
theorem faultsExactlyWhen : Obligations.FaultsExactlyWhen := by
  intro s t r hf h
  by_cases hpc : s.pc.toNat ≤ 0xFFE
  case neg =>
    have hpc' := Nat.lt_of_not_le hpc
    cases (step_of_outside hf hpc').symm.trans h
    simp [hpc, hpc', eq_comm]
  cases hd : decode s.fetchWord with
  | error e =>
    cases (step_of_unknown hf hpc hd).symm.trans h
    simp [hpc, eq_comm]
  | ok i =>
    rw [flt_of_step_decoded hf hpc hd h, Option.map_eq_some_iff]
    constructor
    · rintro ⟨c, hc, rfl⟩
      rcases faultCause_eq_some_iff.1 hc with
        ⟨⟨nnn, rfl⟩, hsp, rfl⟩ | ⟨rfl, hsp, rfl⟩ | ⟨⟨x, hi, hx⟩, rfl⟩
      · exact .inr (.inr (.inl ⟨hpc, ⟨nnn, rfl⟩, hsp, rfl⟩))
      · exact .inr (.inr (.inr (.inl ⟨hpc, rfl, hsp, rfl⟩)))
      · exact .inr (.inr (.inr (.inr ⟨hpc, ⟨x, by simpa using hi, hx⟩, rfl⟩)))
    · rintro (⟨hpc', -⟩ | ⟨-, ⟨e, he⟩, -⟩ | ⟨-, ⟨nnn, hi⟩, hsp, rfl⟩ | ⟨-, hi, hsp, rfl⟩ |
        ⟨-, ⟨x, hi, hx⟩, rfl⟩)
      · omega
      · cases he
      · exact ⟨_, faultCause_eq_some_iff.2 (.inl ⟨⟨nnn, by simpa using hi⟩, hsp, rfl⟩), rfl⟩
      · exact ⟨_, faultCause_eq_some_iff.2 (.inr (.inl ⟨by simpa using hi, hsp, rfl⟩)), rfl⟩
      · exact ⟨_, faultCause_eq_some_iff.2 (.inr (.inr ⟨⟨x, by simpa using hi, hx⟩, rfl⟩)), rfl⟩

theorem faultCause_ne_fetchOutOfRange (h : faultCause i s = some c) : c ≠ .fetchOutOfRange := by
  rcases faultCause_eq_some_iff.1 h with ⟨-, -, rfl⟩ | ⟨-, -, rfl⟩ | ⟨-, rfl⟩ <;> decide

/-- Settles O12: three of the five ways latch a record, and each of them is a change of `pc`, a
`takeFault` and the ports. -/
theorem faultsArePrecise : Obligations.FaultsArePrecise := by
  intro s t r hf h hr
  cases ticked_of_step h with
  | latched hf' => exact absurd hf hf'
  | outside =>
    obtain rfl : _ = r := by simpa using hr
    exact ⟨rfl, by simp, by simp,
      ((s.sameBut_takeFault _ _ _).trans (State.sameBut_nextInputs _)).mono (by decide)⟩
  | unknown =>
    obtain rfl : _ = r := by simpa using hr
    exact ⟨rfl, by simp, by simp,
      ((s.sameBut_unsupported _).trans (State.sameBut_nextInputs _)).mono (by decide)⟩
  | faulted i c _ _ _ hc =>
    obtain rfl : _ = r := by simpa using hr
    exact ⟨rfl, by simp, by simp [faultCause_ne_fetchOutOfRange hc],
      ((s.sameBut_advance.trans (State.sameBut_raise _ c i)).trans
        (State.sameBut_nextInputs _)).mono (by decide)⟩
  | completed i u _ _ _ hc hu => simp [flt_of_completes hf hc hu] at hr

/-! ### Timers (40_tick_cycle.md R93) -/

theorem toNat_countDown (u : Byte) : (countDown u).toNat = u.toNat - 1 := by
  unfold countDown
  split <;> bv_omega

/-- Timers count when nothing is latched. -/
theorem State.timers_countTimers (h : s.flt = none) :
    s.countTimers.dt.toNat = s.dt.toNat - 1 ∧ s.countTimers.st.toNat = s.st.toNat - 1 := by
  simp [State.dt_countTimers, State.st_countTimers, h, toNat_countDown]

/-- Settles O13: a completed instruction leaves `st` alone, and only Fx15 writes `dt`; the count
comes after. A fault ends the tick before the count. -/
theorem timersCountOncePerTick : Obligations.TimersCountOncePerTick := by
  intro s t i hf hpc hd h
  cases ticked_of_step h with
  | latched hf' => exact absurd hf hf'
  | outside _ hpc' => omega
  | unknown _ _ _ hd' => cases hd.symm.trans hd'
  | faulted => exact ⟨fun hn => by simp at hn, fun _ => by simp⟩
  | completed j u _ _ hd' hc hu =>
    cases hd.symm.trans hd'
    have hflt := flt_of_completes hf hc hu
    obtain ⟨hdt, hst⟩ := State.timers_countTimers hflt
    refine ⟨fun _ => ?_, fun hn => absurd hflt (by simpa using hn)⟩
    rw [State.st_nextInputs, State.dt_nextInputs, hst, hdt]
    refine ⟨?_, ?_, ?_, ?_⟩
    · have hsame : u.st = s.st := sameBut_writes hu .st (by cases i <;> simp [Instr.writes])
      rw [hsame]
    · rintro x rfl
      cases hu
      rfl
    · intro hi
      have hsame : u.dt = s.dt := sameBut_writes hu .dt (by
        cases i with
        | ldDtVx x => exact absurd rfl (hi x)
        | _ => simp [Instr.writes])
      rw [hsame]
    · rintro x rfl
      cases hu
      simp

/-! ### The dirty report (40_tick_cycle.md R95) -/

/-- The instructions that change the display, and report it. -/
theorem dirty_mem_completedWrites_iff :
    Part.dirty ∈ completedWrites i ↔ i = .cls ∨ ∃ x y n, i = .drw x y n := by
  cases i <;> simp [completedWrites, Instr.writes]

theorem disp_mem_completedWrites_iff :
    Part.disp ∈ completedWrites i ↔ i = .cls ∨ ∃ x y n, i = .drw x y n := by
  cases i <;> simp [completedWrites, Instr.writes]

theorem dirty_of_completes {u : State} (hc : faultCause i s = none)
    (hu : exec i s.advance = .next u) :
    u.dirty = true ↔ i = .cls ∨ ∃ x y n, i = .drw x y n := by
  rw [← faultCause_advance] at hc
  by_cases hi : i = .cls ∨ ∃ x y n, i = .drw x y n
  · refine iff_of_true ?_ hi
    rcases hi with rfl | ⟨x, y, n, rfl⟩ <;> cases hu <;> rfl
  · have hsame : u.dirty = false :=
      sameBut_of_completes hc hu .dirty (mt dirty_mem_completedWrites_iff.1 hi)
    simp [hsame, hi]

/-- Settles O14: every tick clears the report, a fault leaves it so, and of the instructions that
complete CLS and DRW alone set it. -/
theorem dirtyReportsClearOrDraw : Obligations.DirtyReportsClearOrDraw := by
  intro s t h
  cases ticked_of_step h with
  | latched hf => simp [hf]
  | outside hf hpc => simp [Nat.not_le.2 hpc]
  | unknown e hf hpc hd => simp [hd]
  | faulted i c hf hpc hd hc =>
    rcases faultCause_eq_some_iff.1 hc with
      ⟨⟨nnn, rfl⟩, -⟩ | ⟨rfl, -⟩ | ⟨⟨x, rfl | rfl, -⟩, -⟩ <;> simp [hd]
  | completed i u hf hpc hd hc hu => simp [dirty_of_completes hc hu, hf, hpc, hd]

/-- Settles O15: an instruction that completes and does not report leaves the display, and the
other ways of a step never write it. -/
theorem displayChangesOnlyWhenDirty : Obligations.DisplayChangesOnlyWhenDirty := by
  intro s t h hdirty
  cases ticked_of_step h with
  | completed i u hf hpc hd hc hu =>
    have hi : ¬ (i = .cls ∨ ∃ x y n, i = .drw x y n) := by
      rw [← dirty_of_completes hc hu]; simpa using hdirty
    rw [← faultCause_advance] at hc
    have hsame : u.disp = s.disp :=
      sameBut_of_completes hc hu .disp (mt disp_mem_completedWrites_iff.1 hi)
    simp [hsame]
  | _ => simp

/-! ### Ended and waiting (70_reset_and_hazards.md R206) -/

theorem zext16_eq_formatA (nnn : Addr) : zext16 nnn = formatA 0#4 nnn :=
  BitVec.setWidth_eq_append (by decide)

theorem or_zext16_eq_encode_jp (nnn : Addr) : 0x1000 ||| zext16 nnn = encode (.jp nnn) := by
  have h : formatA 1#4 0#12 ||| formatA 0#4 nnn = formatA (1#4 ||| 0#4) (0#12 ||| nnn) :=
    BitVec.or_append
  rwa [BitVec.zero_or, ← zext16_eq_formatA] at h

theorem zext16_setWidth {a : Word} (h : a.toNat ≤ 0xFFE) : zext16 (a.setWidth 12) = a := by
  apply BitVec.eq_of_toNat_eq
  rw [zext16_toNat, BitVec.toNat_setWidth]
  omega

/-- An instruction that writes back to `pc` the address it was fetched from undoes the advance. -/
theorem setPc_pc_advance (s : State) : s.advance.setPc s.pc = s.halted := rfl

theorem sameBut_counted_halted (s : State) :
    s.SameBut s.halted.countTimers.nextInputs [.dt, .st, .dirty, .keys, .rnd, .host] :=
  ((s.sameBut_halted.trans (State.sameBut_countTimers _)).trans
    (State.sameBut_nextInputs _)).mono (by decide)

/-- Settles O18: the word at `pc` is the jump to `pc`, which writes back to `pc` what it held. -/
theorem endedRunStaysEnded : Obligations.EndedRunStaysEnded := by
  rintro s ⟨hf, hpc, hw⟩
  have hd : decode s.fetchWord = .ok (.jp (s.pc.setWidth 12)) := by
    rw [hw, ← decode_encode, ← or_zext16_eq_encode_jp, zext16_setWidth hpc]
  have hstep := step_of_decoded hf hpc hd
  rw [exec_jp, onNext_next, zext16_setWidth hpc, setPc_pc_advance] at hstep
  obtain ⟨hdt, -⟩ := State.timers_countTimers (s := s.halted) hf
  refine ⟨_, hstep, ⟨?_, ?_, ?_⟩, ?_, ?_, sameBut_counted_halted s⟩
  · simpa using hf
  · simpa using hpc
  · simpa [State.fetchWord] using hw
  · simp
  · simpa using hdt

/-- Settles O19: with no key pressed Fx0A writes back to `pc` the address it was fetched from. -/
theorem waitingTickOnlyCounts : Obligations.WaitingTickOnlyCounts := by
  rintro s ⟨hf, hpc, ⟨x, hw⟩, hk⟩
  have hd : decode s.fetchWord = .ok (.ldVxK x) := by rw [hw, decode_encode]
  have hstep := step_of_decoded hf hpc hd
  rw [exec_ldVxK_of_none x s.advance hk, onNext_next, pc0_advance, setPc_pc_advance] at hstep
  obtain ⟨hdt, hst⟩ := State.timers_countTimers (s := s.halted) hf
  refine ⟨_, hstep, ?_, ?_, ?_, sameBut_counted_halted s⟩
  · simpa using hdt
  · simpa using hst
  · simp

end Sys2Proof.Machine

/-!
The invariant (10_state.md R47). Each operation keeps it when the value that it writes is in range,
and each instruction is a composition of operations.
-/

namespace Sys2Proof.Machine

variable {s t : State} {i : Instr}

/-! ### What each operation needs to keep the invariant -/

theorem State.Inv.setReg (h : s.Inv) (x : Nibble) (u : Byte) : (s.setReg x u).Inv :=
  ⟨h.mem_wf, h.i_range, h.pc_range, h.slot_range, h.st_zero⟩

theorem State.Inv.setRegFlag (h : s.Inv) (x : Nibble) (u : Byte) (f : Bool) :
    (s.setRegFlag x u f).Inv :=
  (h.setReg x u).setReg VF _

theorem State.Inv.setPc (h : s.Inv) {a : Word} (ha : a.toNat ≤ 0x1002) : (s.setPc a).Inv :=
  ⟨h.mem_wf, h.i_range, ha, h.slot_range, h.st_zero⟩

theorem State.Inv.setI (h : s.Inv) {a : Word} (ha : a.toNat ≤ 0xFFF) : (s.setI a).Inv :=
  ⟨h.mem_wf, ha, h.pc_range, h.slot_range, h.st_zero⟩

theorem State.Inv.setDt (h : s.Inv) (u : Byte) : (s.setDt u).Inv :=
  ⟨h.mem_wf, h.i_range, h.pc_range, h.slot_range, h.st_zero⟩

theorem State.Inv.setMem (h : s.Inv) {m : Memory} (hm : Memory.wf m = true) : (s.setMem m).Inv :=
  ⟨hm, h.i_range, h.pc_range, h.slot_range, h.st_zero⟩

theorem State.Inv.setDisp (h : s.Inv) (d : Display) : (s.setDisp d).Inv :=
  ⟨h.mem_wf, h.i_range, h.pc_range, h.slot_range, h.st_zero⟩

theorem State.Inv.push (h : s.Inv) {a : Word} (ha : a.toNat ≤ 0x1000) (room : s.sp.val < 16) :
    (s.push a room).Inv := by
  refine ⟨h.mem_wf, h.i_range, h.pc_range, fun k hk => ?_, h.st_zero⟩
  rw [State.getElem_stack_push]
  split
  · exact ha
  · exact h.slot_range k hk

theorem State.Inv.pop (h : s.Inv) : s.pop.Inv :=
  ⟨h.mem_wf, h.i_range, h.pc_range, h.slot_range, h.st_zero⟩

theorem State.Inv.top_le (h : s.Inv) (live : 0 < s.sp.val) : (s.top live).toNat ≤ 0x1000 :=
  h.slot_range _ _

theorem State.Inv.takeFault (h : s.Inv) (c : FaultCode) (a w : Word) : (s.takeFault c a w).Inv :=
  ⟨h.mem_wf, h.i_range, h.pc_range, h.slot_range, h.st_zero⟩

theorem State.Inv.raise (h : s.Inv) (c : FaultCode) (i : Instr) : (s.raise c i).Inv :=
  h.takeFault c _ _

theorem State.Inv.halted (h : s.Inv) : s.halted.Inv :=
  ⟨h.mem_wf, h.i_range, h.pc_range, h.slot_range, h.st_zero⟩

theorem State.Inv.advance (h : s.Inv) (hpc : s.pc.toNat ≤ 0xFFE) : s.advance.Inv :=
  ⟨h.mem_wf, h.i_range, by rw [State.pc_advance, toNat_add_two hpc]; omega, h.slot_range,
    h.st_zero⟩

/-- A skip takes a `pc` that may be pushed to one at the end of its range (10_state.md R26). -/
theorem State.Inv.skipIf (h : s.Inv) (hpc : s.pc.toNat ≤ 0x1000) (b : Bool) :
    (s.skipIf b).Inv := by
  cases b with
  | false => exact h
  | true => exact h.setPc (by bv_omega)

theorem State.Inv.loadRegisters (h : s.Inv) (n : Nat) : (loadRegisters s n).Inv := by
  induction n with
  | zero => exact h
  | succ n ih => exact ih.setReg _ _

/-- The sound timer stays 0 whether or not it counts (10_state.md R33). -/
theorem State.Inv.countTimers (h : s.Inv) : s.countTimers.Inv := by
  have hst : s.countTimers.st = 0 := by
    rw [State.st_countTimers, h.st_zero]
    exact ite_self _
  exact ⟨by simpa using h.mem_wf, by simpa using h.i_range, by simpa using h.pc_range,
    by simpa using h.slot_range, hst⟩

theorem State.Inv.nextInputs (h : s.Inv) : s.nextInputs.Inv :=
  ⟨by simpa using h.mem_wf, by simpa using h.i_range, by simpa using h.pc_range,
    by simpa using h.slot_range, by simpa using h.st_zero⟩

/-! ### The values that the instructions write -/

theorem zext16_le (nnn : Addr) : (zext16 nnn).toNat ≤ 0xFFF := by
  have := nnn.isLt
  rw [zext16_toNat]
  omega

theorem advanceI_le (a : Word) (d : Nat) : (advanceI a d).toNat ≤ 0xFFF := by
  rw [advanceI_toNat]
  omega

theorem glyphAddr_le (u : Byte) : (glyphAddr u).toNat ≤ 0xFFF := by
  have := u.isLt
  rw [glyphAddr_toNat]
  omega

/-- Every instruction keeps the invariant from a `pc` that a tick has just advanced from inside
memory. -/
theorem State.Inv.exec (h : s.Inv) (hlo : 2 ≤ s.pc.toNat) (hhi : s.pc.toNat ≤ 0x1000)
    (hx : exec i s = .next t) : t.Inv := by
  cases hc : faultCause i s with
  | some c => cases (exec_of_faultCause hc).symm.trans hx; exact h.raise c i
  | none =>
    cases i with
    | cls => cases hx; exact h.setDisp _
    | ret =>
      have live := faultCause_ret_eq_none.1 hc
      cases (exec_ret_of_live s live).symm.trans hx
      exact h.pop.setPc ((h.top_le live).trans (by decide))
    | jp nnn => cases hx; exact h.setPc ((zext16_le nnn).trans (by decide))
    | call nnn =>
      have room := faultCause_call_eq_none.1 hc
      cases (exec_call_of_room nnn s room).symm.trans hx
      exact (h.push hhi room).setPc ((zext16_le nnn).trans (by decide))
    | seImm | sneImm | seReg | sneReg => cases hx; exact h.skipIf hhi _
    | ldImm | addImm | ldReg | orReg | andReg | xorReg | rnd | ldVxDt =>
      cases hx; exact h.setReg _ _
    | addReg | subReg | shr => cases hx; exact h.setRegFlag _ _ _
    | ldI nnn => cases hx; exact h.setI (zext16_le nnn)
    | addI => cases hx; exact h.setI (advanceI_le _ _)
    | ldF => cases hx; exact h.setI (glyphAddr_le _)
    | drw => cases hx; exact (h.setDisp _).setReg _ _
    | skp x =>
      cases (exec_skp_of_key x s (faultCause_skp_eq_none.1 hc)).symm.trans hx
      exact h.skipIf hhi _
    | sknp x =>
      cases (exec_sknp_of_key x s (faultCause_sknp_eq_none.1 hc)).symm.trans hx
      exact h.skipIf hhi _
    | ldVxK x =>
      by_cases hk : s.keys = 0
      · cases (exec_ldVxK_of_none x s hk).symm.trans hx
        exact h.setPc (by rw [State.pc0]; bv_omega)
      · cases (exec_ldVxK_of_pressed x s hk).symm.trans hx
        exact h.setReg _ _
    | ldDtVx => cases hx; exact h.setDt _
    | ldB =>
      cases hx
      exact h.setMem (Memory.wf_write _ _ _ (Memory.wf_write _ _ _
        (Memory.wf_write _ _ _ h.mem_wf (ea_lt _ _)) (ea_lt _ _)) (ea_lt _ _))
    | stRegs => cases hx; exact h.setMem (wf_storeRegisters s _ h.mem_wf)
    | ldRegs => cases hx; exact (h.loadRegisters _).setI (advanceI_le _ _)

/-- Settles O16: in each way of a step, from the operations of the tick and those of the
instruction. -/
theorem everyStepKeepsInv : Obligations.EveryStepKeepsInv := by
  intro s t h hs
  cases ticked_of_step hs with
  | latched => exact h.halted.nextInputs
  | outside => exact (h.takeFault _ _ _).nextInputs
  | unknown _ _ hpc => exact ((h.advance hpc).takeFault _ _ _).nextInputs
  | faulted i c _ hpc => exact ((h.advance hpc).raise c i).nextInputs
  | completed i u _ hpc _ _ hu =>
    have hadv : s.advance.pc.toNat = s.pc.toNat + 2 := toNat_add_two hpc
    exact ((h.advance hpc).exec (by omega) (by omega) hu).countTimers.nextInputs

/-- Settles O17: memory lists no cell at reset, and the other pieces are constants. -/
theorem invHoldsAtReset : Obligations.InvHoldsAtReset := by
  refine ⟨rfl, by decide, by decide, fun k hk => ?_, rfl⟩
  simp [State.reset]

end Sys2Proof.Machine

/-!
Memory in canonical form (log entry 24): the first cell of the list is the lowest address whose
byte is not the unlisted one, so the readings fix the list cell by cell.
-/

namespace Sys2Proof.Machine

variable {m m' : Memory} {a a' : Nat} {u u' : Byte}

/-- Below its first cell a canonical memory reads as nothing listed. -/
theorem Memory.read_of_lt_all (h : ∀ c ∈ m, a < c.1) : m.read a = Memory.unlisted a := by
  induction m with
  | nil => rfl
  | cons c m ih =>
    obtain ⟨b, u⟩ := c
    have hb : a < b := h (b, u) List.mem_cons_self
    rw [Memory.read_cons, if_neg hb.ne]
    exact ih fun c hc => h c (List.mem_cons_of_mem _ hc)

/-- The first cell is seen at its address: no memory that starts above reads the same there. -/
theorem Memory.read_head_ne (h : Memory.wf ((a, u) :: m) = true) (h' : ∀ c ∈ m', a < c.1) :
    Memory.read ((a, u) :: m) a ≠ m'.read a := by
  obtain ⟨-, hu, -, -⟩ := (Memory.wf_cons a u m).1 h
  rw [Memory.read_of_lt_all h', Memory.read_cons, if_pos rfl]
  exact hu

theorem Memory.lt_all_of_lt_head (h : Memory.wf ((a', u') :: m') = true) (ha : a < a') :
    ∀ c ∈ (a', u') :: m', a < c.1 := by
  obtain ⟨-, -, hlt, -⟩ := (Memory.wf_cons a' u' m').1 h
  intro c hc
  rcases List.mem_cons.1 hc with rfl | hc
  · exact ha
  · exact ha.trans (hlt c hc)

theorem Memory.eq_of_read_eq (hm : Memory.wf m = true) (hm' : Memory.wf m' = true)
    (h : ∀ a < 0x1000, m.read a = m'.read a) : m = m' := by
  induction m generalizing m' with
  | nil =>
    cases m' with
    | nil => rfl
    | cons c' m' =>
      obtain ⟨ha', -⟩ := (Memory.wf_cons _ _ _).1 hm'
      exact absurd (h _ ha').symm (Memory.read_head_ne hm' (by simp))
  | cons c m ih =>
    obtain ⟨a, u⟩ := c
    obtain ⟨ha, hu, hlt, hwf⟩ := (Memory.wf_cons _ _ _).1 hm
    cases m' with
    | nil => exact absurd (h _ ha) (Memory.read_head_ne hm (by simp))
    | cons c' m' =>
      obtain ⟨a', u'⟩ := c'
      obtain ⟨ha', hu', hlt', hwf'⟩ := (Memory.wf_cons _ _ _).1 hm'
      obtain hlow | rfl | hhigh := Nat.lt_trichotomy a a'
      · exact absurd (h a ha) (Memory.read_head_ne hm (Memory.lt_all_of_lt_head hm' hlow))
      · obtain rfl : u = u' := by simpa using h a ha
        rw [ih hwf hwf' fun b hb => ?_]
        by_cases hba : b = a
        · subst hba
          rw [Memory.read_of_lt_all hlt, Memory.read_of_lt_all hlt']
        · simpa [hba] using h b hb
      · exact absurd (h a' ha').symm
          (Memory.read_head_ne hm' (Memory.lt_all_of_lt_head hm hhigh))

/-- Settles O23: cell by cell, a reading that one list fixes by its head the other must give too. -/
theorem canonicalMemoryIsItsReadings : Obligations.CanonicalMemoryIsItsReadings :=
  fun _ _ hm hm' h => Memory.eq_of_read_eq hm hm' h

end Sys2Proof.Machine

/-!
A CALL and its RET (41_control_flow.md R108).
-/

namespace Sys2Proof.Machine

variable {s t b : State}

/-- Settles O27: the CALL's slot is the top of the stack that the RET finds, and a pop writes no
slot. -/
theorem callThenReturnResumes : Obligations.CallThenReturnResumes := by
  intro s nnn room
  refine ⟨_, exec_call_of_room nnn s room, fun b hsp hstack => ?_⟩
  have hsp : b.sp.val = s.sp.val + 1 := congrArg Fin.val hsp
  have hslot : ∀ k (h : k < 16), b.stack[k] = if k = s.sp.val then s.pc else s.stack[k] := by
    simpa only [hstack, State.stack_setPc] using s.getElem_stack_push s.pc room
  refine ⟨_, exec_ret_of_live b (by omega), Fin.ext ?_, ?_, fun k hk hlt => ?_⟩
  · show b.sp.val - 1 = s.sp.val
    omega
  · rw [State.pc_setPc, b.top_eq _ s.sp.val room hsp.symm, hslot, if_pos rfl]
  · rw [State.stack_setPc, State.stack_pop, hslot, if_neg hlt.ne]

end Sys2Proof.Machine

/-!
The arithmetic with a flag, and random (42_register_alu.md R118 to R123). Each instruction of the
first is one `setRegFlag`.
-/

namespace Sys2Proof.Machine

theorem State.reg_setRegFlag_self (s : State) {x : Nibble} (hx : x ≠ VF) (u : Byte) (f : Bool) :
    (s.setRegFlag x u f).reg x = u := by
  rw [State.reg_setRegFlag, if_neg hx, if_pos rfl]

theorem State.reg_VF_setRegFlag (s : State) (x : Nibble) (u : Byte) (f : Bool) :
    (s.setRegFlag x u f).reg VF = flagByte f := by
  rw [State.reg_setRegFlag, if_pos rfl]

theorem State.sameRegsBut_setRegFlag (s : State) (x : Nibble) (u : Byte) (f : Bool) :
    s.SameRegsBut (s.setRegFlag x u f) [x, VF] := by
  intro z hz
  obtain ⟨hx, hvf⟩ : z ≠ x ∧ z ≠ VF := by simpa using hz
  rw [State.reg_setRegFlag, if_neg hvf, if_neg hx]

/-- Settles O32: the sum is narrowed, and the flag is the carry of the exact sum. -/
theorem addSetsCarry : Obligations.AddSetsCarry := by
  refine fun s x y => ⟨_, exec_addReg x y s, fun hx => ?_, ?_, s.sameRegsBut_setRegFlag x _ _,
    s.sameBut_setRegFlag x _ _⟩
  · rw [s.reg_setRegFlag_self hx, sumByte_toNat]
  · rw [s.reg_VF_setRegFlag, flagByte_toNat, carry]
    simp only [decide_eq_true_eq, gt_iff_lt]

theorem differenceByte_toNat_eq_emod (a b : Byte) :
    ((differenceByte a b).toNat : Int) = ((a.toNat : Int) - b.toNat) % 256 := by
  have := a.isLt
  have := b.isLt
  rw [differenceByte_toNat]
  omega

/-- Settles O33: the difference is narrowed, and the flag compares the operands. -/
theorem subSetsNoBorrow : Obligations.SubSetsNoBorrow := by
  refine fun s x y => ⟨_, exec_subReg x y s, fun hx => ?_, ?_, s.sameRegsBut_setRegFlag x _ _,
    s.sameBut_setRegFlag x _ _⟩
  · rw [s.reg_setRegFlag_self hx, differenceByte_toNat_eq_emod]
  · rw [s.reg_VF_setRegFlag, flagByte_toNat, noBorrow]
    simp only [decide_eq_true_eq, ge_iff_le]

theorem flagByte_shiftedOut_toNat (b : Byte) : (flagByte (shiftedOut b)).toNat = b.toNat % 2 := by
  rw [flagByte_toNat, shiftedOut_eq]
  rcases Nat.mod_two_eq_zero_or_one b.toNat with h | h <;> simp [h]

/-- Settles O34: half of `Vy` and its low bit, whichever register `Vx` is. -/
theorem shiftRightSetsBitOut : Obligations.ShiftRightSetsBitOut := by
  refine fun s x y => ⟨_, exec_shr x y s, fun hx => ?_, ?_, s.sameRegsBut_setRegFlag x _ _,
    s.sameBut_setRegFlag x _ _⟩
  · rw [s.reg_setRegFlag_self hx, shiftedByte_toNat]
  · rw [s.reg_VF_setRegFlag, flagByte_shiftedOut_toNat]

/-- With nothing listed the random port takes the next free byte. -/
theorem State.draw_nextInputs_nil (s : State) (h : s.inputs = []) :
    s.nextInputs.rnd = Config.rndByte s.draws ∧ s.nextInputs.draws = s.draws + 1 := by
  unfold State.nextInputs
  rw [h]
  exact ⟨rfl, rfl⟩

/-- A step ends with the host's turn, and nothing before it moves the model's own fields. -/
theorem exists_nextInputs_of_step {s t : State} (h : step s = .next t) :
    ∃ u : State, s.Same u .host ∧ t = u.nextInputs := by
  cases ticked_of_step h with
  | latched => exact ⟨_, s.sameBut_halted .host (by decide), rfl⟩
  | outside => exact ⟨_, s.sameBut_takeFault _ _ _ .host (by decide), rfl⟩
  | unknown => exact ⟨_, s.sameBut_unsupported _ .host (by decide), rfl⟩
  | faulted i c =>
    exact ⟨_, (s.sameBut_advance.trans (State.sameBut_raise _ c i)) .host (by decide), rfl⟩
  | completed i u _ _ _ _ hu =>
    have hhost : Part.host ∉ i.writes := by cases i <;> simp [Instr.writes]
    exact ⟨_, ((s.sameBut_advance .host (by decide)).trans (sameBut_writes hu .host hhost)).trans
      (u.sameBut_countTimers .host (by decide)), rfl⟩

/-- Settles O35: the mask is taken of whatever byte the port holds, and no part of a tick but its
end moves the port. -/
theorem randomIsMaskedPortByte : Obligations.RandomIsMaskedPortByte := by
  refine fun s x kk => ⟨⟨_, exec_rnd x kk s, s.reg_setReg_self x _, ?_, s.sameRegsBut_setReg x _,
    s.sameBut_setReg x _⟩, fun t hin h => ?_⟩
  · rw [State.reg_setReg_self, BitVec.and_assoc, BitVec.and_not_self]
    exact BitVec.and_zero
  · obtain ⟨u, ⟨hinputs, hdraws, -⟩, rfl⟩ := exists_nextInputs_of_step h
    rw [← hdraws]
    exact u.draw_nextInputs_nil (hinputs.trans hin)

end Sys2Proof.Machine

/-!
Memory transfer (43_index_memory.md). Stores are one `setMem`; what they leave at each address is
said by `Memory.read_write` and the lemmas about `storeRegisters`.
-/

namespace Sys2Proof.Machine

/-! ### Glyphs -/

theorem State.mem_powerOn (c : Config) (legal : c.wf = true) :
    (State.powerOn c legal).mem = Memory.writeBytes [] 0 c.font := rfl

theorem Config.wf_iff (c : Config) : c.wf = true ↔
    c.startAddr.toNat % 2 = 0 ∧ 0x050 ≤ c.startAddr.toNat ∧ c.startAddr.toNat ≤ 0xFFE
      ∧ c.font.length = 80 := by
  simp [Config.wf, and_assoc]

/-- What memory reads as when the font has been written into empty memory. -/
theorem read_font {c : Config} (legal : c.wf = true) (a : Nat) :
    (Memory.writeBytes [] 0 c.font).read a = if a < 80 then c.font.getD a 0 else 0 := by
  obtain ⟨-, -, -, hfont⟩ := (Config.wf_iff c).1 legal
  rw [Memory.read_writeBytes, hfont]
  by_cases ha : a < 80
  · simp [ha]
  · simp [ha, Memory.unlisted_above_font a (Nat.le_of_not_lt ha)]

/-- Settles O37: the glyphs of digits lie below the font's end, where no address wraps. -/
theorem glyphAddressPointsIntoFont : Obligations.GlyphAddressPointsIntoFont := by
  refine fun s x => ⟨_, exec_ldF x s, glyphAddr_toNat _, s.sameBut_setI _, ?_⟩
  intro c legal hmem hdigit k hk
  have hea : ea (glyphAddr (s.reg x)) k = 5 * (s.reg x).toNat + k := by
    rw [ea, glyphAddr_toNat]
    omega
  rw [State.mem_setI, hmem, State.mem_powerOn, read_font legal, State.i_setI, hea,
    if_pos (by omega)]

/-! ### Decimal digits -/

theorem exec_ldB (x : Nibble) (s : State) : exec (.ldB x) s = .next (s.setMem
    (((s.mem.write (ea s.i 0) (bcdDigit (s.reg x) 0)).write (ea s.i 1) (bcdDigit (s.reg x) 1)).write
      (ea s.i 2) (bcdDigit (s.reg x) 2))) := rfl

theorem ea_ne (a : Word) {k l : Nat} (hk : k < 4096) (hl : l < 4096) (h : k ≠ l) : ea a k ≠ ea a l :=
  mt (ea_inj a hk hl) h

/-- Settles O38: the three addresses differ, so each digit stands. -/
theorem storeDecimalDigits : Obligations.StoreDecimalDigits := by
  intro s x
  obtain ⟨hundreds, tens, units⟩ := bcdDigit_toNat (s.reg x)
  have h01 := ea_ne s.i (k := 0) (l := 1) (by decide) (by decide) (by decide)
  have h02 := ea_ne s.i (k := 0) (l := 2) (by decide) (by decide) (by decide)
  have h12 := ea_ne s.i (k := 1) (l := 2) (by decide) (by decide) (by decide)
  refine ⟨_, exec_ldB x s, ?_, ?_, ?_, fun a ha => ?_, s.sameBut_setMem _⟩
  · simpa [h01, h02] using hundreds
  · simpa [h12] using tens
  · simpa using units
  · have hne : ∀ k < 3, a ≠ ea s.i k := fun k hk e => ha ⟨k, hk, e⟩
    simp [hne]

/-! ### Register blocks -/

/-- What a block store leaves at the address of a stored register. -/
theorem read_storeRegisters_reg (s : State) {x z : Nibble} (h : z ≤ x) :
    (storeRegisters s (x.toNat + 1)).read (ea s.i z.toNat) = s.reg z := by
  rw [read_storeRegisters_at s _ _ x.isLt (Nat.lt_succ_of_le h), BitVec.ofNat_toNat,
    BitVec.setWidth_eq]

/-- Settles O39: the addresses of a block differ, so each register's byte stands. -/
theorem storeRegisterBlock : Obligations.StoreRegisterBlock := by
  refine fun s x => ⟨_, exec_stRegs x s, fun z hz => read_storeRegisters_reg s hz, fun a ha => ?_,
    s.sameBut_setMem _⟩
  exact read_storeRegisters_other s _ a fun k hk e => ha ⟨k, Nat.le_of_lt_succ hk, e⟩

theorem reg_ldRegs_of_le (s : State) {x z : Nibble} (h : z ≤ x) (a : Word) :
    ((loadRegisters s (x.toNat + 1)).setI a).reg z = s.mem.read (ea s.i z.toNat) := by
  rw [State.reg_setI, reg_loadRegisters s _ x.isLt, if_pos (Nat.lt_succ_of_le h)]

/-- Settles O40: all addresses come from the I of the start, which only the last write moves. -/
theorem loadRegisterBlock : Obligations.LoadRegisterBlock := by
  refine fun s x => ⟨_, exec_ldRegs x s, fun z hz => reg_ldRegs_of_le s hz _, fun z hz => ?_,
    advanceI_toNat _ _, ((sameBut_loadRegisters s _).trans (State.sameBut_setI _ _)).mono
      (by decide)⟩
  have hz : ¬ z.toNat < x.toNat + 1 := mt Nat.le_of_lt_succ hz
  rw [State.reg_setI, reg_loadRegisters s _ x.isLt, if_neg hz]

/-- Settles O41: the load reads at the addresses at which the store left the registers. -/
theorem storeThenLoadRestoresRegisters : Obligations.StoreThenLoadRestoresRegisters := by
  refine fun s x => ⟨_, exec_stRegs x s, fun b hi hmem => ⟨_, exec_ldRegs x b, fun z hz => ?_, ?_⟩⟩
  · rw [reg_ldRegs_of_le b hz, hmem, hi, State.mem_setMem, read_storeRegisters_reg s hz]
  · rw [State.i_setI, advanceI_toNat, hi, Nat.add_assoc]

/-- Settles O42: where a word fits into memory the address of its second byte does not wrap. -/
theorem fetchSeesStoredBytes : Obligations.FetchSeesStoredBytes := by
  refine fun s x z hz => ⟨_, exec_stRegs x s, fun b hmem hpc hle => ?_⟩
  have hnext : (z + 1).toNat = z.toNat + 1 := by bv_omega
  have hsucc : ea s.i z.toNat + 1 = ea s.i (z + 1).toNat := by
    rw [hnext]
    unfold ea at hpc ⊢
    omega
  rw [State.fetchWord, hpc, hsucc, hmem, hmem, State.mem_setMem,
    read_storeRegisters_reg s (BitVec.le_of_lt hz), read_storeRegisters_reg s (by bv_omega)]
  rfl

end Sys2Proof.Machine

/-!
Keys and the delay timer (45_keypad_timer.md).
-/

namespace Sys2Proof.Machine

theorem State.toNat_pc_skipIf_keyPressed (s : State) (k : Byte) :
    (s.skipIf (keyPressed s.keys k)).pc.toNat
      = if s.keys.getLsbD k.toNat = true then (s.pc.toNat + 2) % 65536 else s.pc.toNat :=
  s.toNat_pc_skipIf _

theorem State.toNat_pc_skipIf_not_keyPressed (s : State) (k : Byte) :
    (s.skipIf (!keyPressed s.keys k)).pc.toNat
      = if s.keys.getLsbD k.toNat = false then (s.pc.toNat + 2) % 65536 else s.pc.toNat := by
  simp only [State.toNat_pc_skipIf, keyPressed, Bool.not_eq_true']

/-- Settles O46: below 16 each is a `skipIf` on the key's level, above it each only raises. -/
theorem keyTestsSkip : Obligations.KeyTestsSkip := by
  refine fun s x => ⟨fun hx => ?_, fun hx i hi => ?_⟩
  · have hkey := Nat.not_lt.2 hx
    exact ⟨⟨_, exec_skp_of_key x s hkey, s.toNat_pc_skipIf_keyPressed _, s.sameBut_skipIf _⟩,
      ⟨_, exec_sknp_of_key x s hkey, s.toNat_pc_skipIf_not_keyPressed _, s.sameBut_skipIf _⟩⟩
  · have hc : faultCause i s = some .keyIndexOutOfRange :=
      faultCause_eq_some_iff.2 (.inr (.inr ⟨⟨x, by simpa using hi, hx⟩, rfl⟩))
    exact ⟨_, exec_of_faultCause hc, ⟨_, State.flt_raise s _ _, rfl⟩, s.sameBut_raise _ _⟩

/-- Settles O47: each is one write, of the timer to a register or of a register to the timer. -/
theorem delayTimerTransfers : Obligations.DelayTimerTransfers := fun s x =>
  ⟨⟨_, exec_ldVxDt x s, s.reg_setReg_self x _, s.sameRegsBut_setReg x _, s.sameBut_setReg x _⟩,
    ⟨_, exec_ldDtVx x s, s.dt_setDt _, s.sameBut_setDt _⟩⟩

theorem exists_pressed {keys : BitVec 16} (h : keys ≠ 0) : ∃ k < 16, keys.getLsbD k = true := by
  by_contra! hnone
  exact h (BitVec.eq_of_getLsbD_eq fun k hk => by simpa using hnone k hk)

/-- Of the keys pressed the selected one is the first. -/
theorem keySelect_spec {keys : BitVec 16} (h : keys ≠ 0) :
    (keySelect keys).toNat < 16 ∧ keys.getLsbD (keySelect keys).toNat = true
      ∧ ∀ k < (keySelect keys).toNat, keys.getLsbD k = false := by
  obtain ⟨k, hk, hpressed⟩ := exists_pressed h
  obtain ⟨-, hlt, hfirst, hbelow⟩ := firstKey_spec keys 16 0 ⟨k, by omega, by omega, hpressed⟩
  have hsel : (keySelect keys).toNat = firstKey keys 16 0 := by
    rw [keySelect, BitVec.toNat_ofNat]
    omega
  rw [hsel]
  exact ⟨by omega, hfirst, fun j hj => hbelow j (Nat.zero_le j) hj⟩

/-- Settles O48: the selected key is one of those pressed. -/
theorem keyWaitStallsOrReports : Obligations.KeyWaitStallsOrReports := by
  refine fun s x => ⟨fun hk => ?_, fun hk => ?_⟩
  · exact ⟨_, exec_ldVxK_of_none x s hk, rfl, s.sameBut_setPc _⟩
  · obtain ⟨hlt, hpressed, -⟩ := keySelect_spec hk
    refine ⟨_, exec_ldVxK_of_pressed x s hk, ?_, ?_, s.sameRegsBut_setReg x _, s.sameBut_setReg x _⟩
    · rwa [State.reg_setReg_self]
    · rwa [State.reg_setReg_self]

/-- Settles O49: the selected key is the first of those pressed. -/
theorem keyWaitReportsLowestKey : Obligations.KeyWaitReportsLowestKey := by
  intro s t x hk h
  cases (exec_ldVxK_of_pressed x s hk).symm.trans h
  obtain ⟨-, -, hbelow⟩ := keySelect_spec hk
  rwa [State.reg_setReg_self]

end Sys2Proof.Machine

/-!
Drawing (44_display.md R141 to R146). A drawing inverts a set of pixels and notes a collision when
one of them was on. Two drawings one after the other invert the union of their sets where these
are disjoint; the columns and the rows of a sprite are, since neither wraps onto itself.
-/

namespace Sys2Proof.Machine

/-- `h` is `g` with exactly the pixels of `P` inverted, and the collision of those that were on. -/
structure Drawing.Inverts (g h : Drawing) (P : Nat → Nat → Prop) : Prop where
  on : ∀ px < 64, ∀ py < 32, P px py → h.disp.pixel px py = !g.disp.pixel px py
  off : ∀ px < 64, ∀ py < 32, ¬ P px py → h.disp.pixel px py = g.disp.pixel px py
  coll : h.coll = true ↔
    g.coll = true ∨ ∃ px < 64, ∃ py < 32, P px py ∧ g.disp.pixel px py = true

variable {g h k : Drawing} {P Q : Nat → Nat → Prop}

theorem Drawing.Inverts.congr (hg : g.Inverts h P) (hPQ : ∀ px py, P px py ↔ Q px py) :
    g.Inverts h Q := by
  obtain rfl : P = Q := funext fun px => funext fun py => propext (hPQ px py)
  exact hg

theorem Drawing.Inverts.none (g : Drawing) (hP : ∀ px py, ¬ P px py) : g.Inverts g P where
  on := fun px _ py _ hp => absurd hp (hP px py)
  off := fun _ _ _ _ _ => rfl
  coll := by simp [hP]

/-- Of two disjoint sets the second finds its pixels as they were before the first. -/
theorem Drawing.Inverts.trans (hg : g.Inverts h P) (hh : h.Inverts k Q)
    (hdisj : ∀ px py, P px py → ¬ Q px py) :
    g.Inverts k fun px py => P px py ∨ Q px py where
  on := by
    rintro px hx py hy (hp | hq)
    · rw [hh.off px hx py hy (hdisj px py hp), hg.on px hx py hy hp]
    · rw [hh.on px hx py hy hq, hg.off px hx py hy fun hp => hdisj px py hp hq]
  off := by
    intro px hx py hy hpq
    obtain ⟨hp, hq⟩ := not_or.1 hpq
    rw [hh.off px hx py hy hq, hg.off px hx py hy hp]
  coll := by
    have hold : ∀ px < 64, ∀ py < 32, Q px py → h.disp.pixel px py = g.disp.pixel px py :=
      fun px hx py hy hq => hg.off px hx py hy fun hp => hdisj px py hp hq
    rw [hh.coll, hg.coll]
    constructor
    · rintro ((hc | ⟨px, hx, py, hy, hp, hon⟩) | ⟨px, hx, py, hy, hq, hon⟩)
      · exact .inl hc
      · exact .inr ⟨px, hx, py, hy, .inl hp, hon⟩
      · exact .inr ⟨px, hx, py, hy, .inr hq, hold px hx py hy hq ▸ hon⟩
    · rintro (hc | ⟨px, hx, py, hy, hp | hq, hon⟩)
      · exact .inl (.inl hc)
      · exact .inl (.inr ⟨px, hx, py, hy, hp, hon⟩)
      · exact .inr ⟨px, hx, py, hy, hq, (hold px hx py hy hq).trans hon⟩

theorem Drawing.inverts_plot (g : Drawing) {cx cy : Nat} (hx : cx < 64) (hy : cy < 32) :
    g.Inverts (g.plot cx cy) fun px py => px = cx ∧ py = cy where
  on := fun px _ py hpy hp => by
    rw [Drawing.plot, Display.pixel_flip _ _ _ _ _ hx hpy, if_pos hp]
  off := fun px _ py hpy hp => by
    rw [Drawing.plot, Display.pixel_flip _ _ _ _ _ hx hpy, if_neg hp]
  coll := by
    simp only [Drawing.plot, Bool.or_eq_true]
    refine or_congr_right ⟨fun hon => ⟨cx, hx, cy, hy, ⟨rfl, rfl⟩, hon⟩, ?_⟩
    rintro ⟨_, -, _, -, ⟨rfl, rfl⟩, hon⟩
    exact hon

/-! ### A sprite, column by column and row by row -/

/-- The pixels of the first `c` columns of a sprite row in display row `cy`. -/
def Drawing.ColumnPixels (b : Byte) (x0 cy c px py : Nat) : Prop :=
  ∃ j < c, b.getLsbD (7 - j) = true ∧ px = (x0 + j) % 64 ∧ py = cy

/-- The pixels of the first `r` rows of a sprite. -/
def Drawing.RowPixels (rowByte : Nat → Byte) (x0 y0 r px py : Nat) : Prop :=
  ∃ j < r, Drawing.ColumnPixels (rowByte j) x0 ((y0 + j) % 32) 8 px py

theorem Drawing.columnPixels_succ {b : Byte} {x0 cy c px py : Nat} :
    ColumnPixels b x0 cy (c + 1) px py ↔ ColumnPixels b x0 cy c px py
      ∨ (b.getLsbD (7 - c) = true ∧ px = (x0 + c) % 64 ∧ py = cy) :=
  Nat.exists_lt_succ_right

theorem Drawing.rowPixels_succ {rowByte : Nat → Byte} {x0 y0 r px py : Nat} :
    RowPixels rowByte x0 y0 (r + 1) px py ↔ RowPixels rowByte x0 y0 r px py
      ∨ ColumnPixels (rowByte r) x0 ((y0 + r) % 32) 8 px py :=
  Nat.exists_lt_succ_right

theorem Drawing.inverts_columns (b : Byte) (x0 : Nat) {cy : Nat} (hcy : cy < 32) (g : Drawing)
    {c : Nat} (hc : c ≤ 8) :
    g.Inverts (Drawing.columns b x0 cy c g) (Drawing.ColumnPixels b x0 cy c) := by
  induction c with
  | zero => exact .none g fun px py ⟨j, hj, _⟩ => Nat.not_lt_zero j hj
  | succ c ih =>
    have before := ih (by omega)
    rw [Drawing.columns]
    by_cases hbit : b.getLsbD (7 - c) = true
    · rw [if_pos hbit]
      refine (before.trans (Drawing.inverts_plot _ (Nat.mod_lt _ (by decide)) hcy) ?_).congr
        fun px py => by rw [Drawing.columnPixels_succ]; simp [hbit]
      rintro px py ⟨j, hj, -, hpx, -⟩ ⟨hpx', -⟩
      omega
    · rw [if_neg hbit]
      exact before.congr fun px py => by rw [Drawing.columnPixels_succ]; simp [hbit]

theorem Drawing.inverts_rows (rowByte : Nat → Byte) (x0 y0 : Nat) (g : Drawing) {r : Nat}
    (hr : r ≤ 16) :
    g.Inverts (Drawing.rows rowByte x0 y0 r g) (Drawing.RowPixels rowByte x0 y0 r) := by
  induction r with
  | zero => exact .none g fun px py ⟨j, hj, _⟩ => Nat.not_lt_zero j hj
  | succ r ih =>
    refine ((ih (by omega)).trans (Drawing.inverts_columns _ x0 (Nat.mod_lt _ (by decide)) _ le_rfl)
      ?_).congr fun px py => Drawing.rowPixels_succ.symm
    rintro px py ⟨j, hj, -, -, -, -, hpy⟩ ⟨-, -, -, -, hpy'⟩
    omega

/-! ### DRW -/

variable {s b : State} {x y n : Nibble}

theorem inverts_drawSprite (s : State) (x y n : Nibble) :
    Drawing.Inverts ⟨s.disp, false⟩ (drawSprite s x y n) (s.Covers x y n) := by
  refine (Drawing.inverts_rows _ _ _ _ n.isLt.le).congr fun px py => ?_
  simp only [Drawing.RowPixels, Drawing.ColumnPixels, State.Covers]

/-- VF after a DRW. -/
theorem flag_drawSprite_eq_one
    (h : ∃ cx < 64, ∃ cy < 32, s.Covers x y n cx cy ∧ s.disp.pixel cx cy = true) :
    flagByte (drawSprite s x y n).coll = 1 := by
  rw [(inverts_drawSprite s x y n).coll.2 (.inr h)]
  rfl

theorem flag_drawSprite_eq_zero
    (h : ∀ cx < 64, ∀ cy < 32, s.Covers x y n cx cy → s.disp.pixel cx cy = false) :
    flagByte (drawSprite s x y n).coll = 0 := by
  have hcoll : (drawSprite s x y n).coll = false := by
    refine Bool.eq_false_iff.2 fun hc => ?_
    obtain hfalse | ⟨cx, hx, cy, hy, hcov, hon⟩ := (inverts_drawSprite s x y n).coll.1 hc
    · exact Bool.false_ne_true hfalse
    · rw [h cx hx cy hy hcov] at hon
      exact Bool.false_ne_true hon
  rw [hcoll]
  rfl

/-- Settles O44: the sprite's rows and columns invert disjoint sets of pixels, whose union is
`State.Covers`. -/
theorem drawXorsCoveredPixels : Obligations.DrawXorsCoveredPixels := by
  intro s x y n
  have hinv := inverts_drawSprite s x y n
  refine ⟨_, exec_drw x y n s, fun cx hx cy hy => ⟨hinv.on cx hx cy hy, hinv.off cx hx cy hy⟩,
    fun h => ?_, fun h => ?_, rfl, State.sameRegsBut_setReg _ VF _,
    ((s.sameBut_setDisp _).trans (State.sameBut_setReg _ _ _)).mono (by decide)⟩
  · rw [State.reg_setReg_self, flag_drawSprite_eq_one h]
  · rw [State.reg_setReg_self, flag_drawSprite_eq_zero h]

/-- The covered pixels depend on I, the coordinates and the readings of memory alone. -/
theorem covers_congr (hi : b.i = s.i) (hx : b.reg x = s.reg x) (hy : b.reg y = s.reg y)
    (hmem : ∀ a, b.mem.read a = s.mem.read a) : b.Covers x y n = s.Covers x y n := by
  funext cx cy
  simp only [State.Covers, hi, hx, hy, hmem]

/-- A second drawing of the same pixels takes the first back. -/
theorem disp_drawSprite_twice (hdisp : b.disp = (drawSprite s x y n).disp)
    (hcov : b.Covers x y n = s.Covers x y n) : (drawSprite b x y n).disp = s.disp := by
  have first := inverts_drawSprite s x y n
  have second := inverts_drawSprite b x y n
  rw [hcov, hdisp] at second
  refine Display.ext_pixels _ _ fun cx cy hx hy => ?_
  by_cases hc : s.Covers x y n cx cy
  · rw [second.on cx hx cy hy hc, first.on cx hx cy hy hc, Bool.not_not]
  · rw [second.off cx hx cy hy hc, first.off cx hx cy hy hc]

/-- Settles O45: both drawings invert the same set of pixels; where these were off, the second
finds them on. -/
theorem drawTwiceRestoresDisplay : Obligations.DrawTwiceRestoresDisplay := by
  intro s x y n
  refine ⟨_, exec_drw x y n s, fun b hdisp hi hx hy hmem => ?_⟩
  have hcov : b.Covers x y n = s.Covers x y n := covers_congr hi hx hy hmem
  have hdisp : b.disp = (drawSprite s x y n).disp := hdisp
  refine ⟨_, exec_drw x y n b, disp_drawSprite_twice hdisp hcov, fun hoff hsome => ?_,
    fun hnone => ?_⟩
  · have hon : ∃ cx < 64, ∃ cy < 32, b.Covers x y n cx cy ∧ b.disp.pixel cx cy = true := by
      obtain ⟨cx, hcx, cy, hcy, hc⟩ := hsome
      refine ⟨cx, hcx, cy, hcy, hcov ▸ hc, ?_⟩
      rw [hdisp, (inverts_drawSprite s x y n).on cx hcx cy hcy hc]
      simp [hoff cx hcx cy hcy hc]
    rw [State.reg_setReg_self, State.reg_setReg_self]
    exact ⟨flag_drawSprite_eq_zero hoff, flag_drawSprite_eq_one hon⟩
  · rw [State.reg_setReg_self, State.reg_setReg_self]
    exact ⟨flag_drawSprite_eq_zero fun cx hcx cy hcy hc => absurd hc (hnone cx hcx cy hcy),
      flag_drawSprite_eq_zero fun cx hcx cy hcy hc => absurd (hcov ▸ hc) (hnone cx hcx cy hcy)⟩

end Sys2Proof.Machine

/-!
The host's operations (10_state.md R45, 70_reset_and_hazards.md R190 to R199). Each runs under a
legal configuration only; what it leaves in memory is said by the laws of `writeBytes` and
`zeroFrom`.
-/

namespace Sys2Proof.Machine

variable {c : Config} {s : State}

/-! ### What each operation answers -/

theorem hostOp_of_illegal (op : HostOp) (s : State) (h : ¬ c.wf = true) :
    hostOp c op s = .refused .illegalConfig :=
  dif_neg h

theorem hostOp_powerOn (s : State) (legal : c.wf = true) :
    hostOp c .powerOn s = .next (State.powerOn c legal) :=
  dif_pos legal

theorem hostOp_warmReset (s : State) (legal : c.wf = true) :
    hostOp c (.reset false) s = .next (s.warmReset c) :=
  dif_pos legal

theorem hostOp_fullReset (s : State) (legal : c.wf = true) :
    hostOp c (.reset true) s = .next (s.fullReset c) :=
  dif_pos legal

theorem hostOp_load (image : List Byte) (s : State) (legal : c.wf = true) :
    hostOp c (.load image) s = if c.fits image then
      if s.ticked then .refused .loadDuringRun else .next (s.load c image)
      else .fault .romTooLarge :=
  dif_pos legal

theorem Config.fits_iff (c : Config) (image : List Byte) :
    c.fits image = true ↔ c.startAddr.toNat + image.length ≤ 0x1000 :=
  decide_eq_true_iff

/-! ### Power-on -/

theorem wf_font (legal : c.wf = true) : Memory.wf (Memory.writeBytes [] 0 c.font) = true := by
  obtain ⟨-, -, -, hfont⟩ := (Config.wf_iff c).1 legal
  exact Memory.wf_writeBytes c.font [] 0 rfl (by omega)

/-- Memory lists no cell when the default font has been written into it. -/
theorem writeBytes_defaultFont : Memory.writeBytes [] 0 defaultFont = [] := by
  have legal : defaultConfig.wf = true := by decide
  refine Memory.eq_of_read_eq (wf_font legal) rfl fun a _ => ?_
  rw [show defaultFont = defaultConfig.font from rfl, read_font legal]
  by_cases ha : a < 80
  · rw [if_pos ha]; rfl
  · rw [if_neg ha, Memory.read_nil, Memory.unlisted_above_font a (Nat.le_of_not_lt ha)]

theorem sameBut_powerOn (legal : c.wf = true) :
    State.reset.SameBut (State.powerOn c legal) [.mem, .pc] := by
  intro p hp
  cases p with
  | mem | pc => exact absurd (by decide) hp
  | regs => exact fun _ => rfl
  | host => exact ⟨rfl, rfl, rfl⟩
  | _ => rfl

/-- Settles O51: memory at power-on is the font written into nothing; the default font is what
nothing listed reads as. -/
theorem powerOnMemoryIsFontThenZero : Obligations.PowerOnMemoryIsFontThenZero := by
  refine ⟨fun c s legal => ⟨_, hostOp_powerOn s legal, wf_font legal, fun a ha => ?_,
    fun a ha => ?_, rfl, sameBut_powerOn legal⟩, fun s => ?_⟩
  · rw [State.mem_powerOn, read_font legal, if_pos ha]
  · rw [State.mem_powerOn, read_font legal, if_neg (Nat.not_lt.2 ha)]
  · have legal : defaultConfig.wf = true := by decide
    rw [hostOp_powerOn s legal, State.powerOn, show defaultConfig.font = defaultFont from rfl,
      writeBytes_defaultFont]
    rfl

/-- Settles O50: the constants of `State.reset`; memory lists nothing, and above the font that
reads as zero. -/
theorem resetValues : Obligations.ResetValues := by
  refine ⟨fun x => ?_, rfl, rfl, rfl, fun k hk => ?_, rfl, rfl, rfl, rfl, rfl, rfl,
    Memory.unlisted_above_font⟩
  · simp [State.reg, State.reset]
  · simp [State.reset]

/-! ### Resets -/

theorem reg_warmReset (c : Config) (s : State) (z : Nibble) : (s.warmReset c).reg z = 0 := by
  simp [State.reg, State.warmReset]

theorem sameBut_warmReset (c : Config) (s : State) :
    s.SameBut (s.warmReset c) [.regs, .pc, .i, .sp, .flt, .dirty, .host] := by
  intro p hp
  cases p with
  | regs | pc | i | sp | flt | dirty | host => exact absurd (by decide) hp
  | mem => exact fun _ => rfl
  | _ => rfl

/-- Settles O52: the reset writes constants to the pieces it restores, and no other piece. -/
theorem warmResetRestoresAndKeeps : Obligations.WarmResetRestoresAndKeeps := fun c s legal =>
  ⟨_, hostOp_warmReset s legal, reg_warmReset c s, rfl, rfl, rfl, rfl, rfl, sameBut_warmReset c s⟩

/-- A full reset is a warm one and a change of memory. -/
theorem fullReset_eq (c : Config) (s : State) : s.fullReset c
    = (s.warmReset c).setMem (Memory.zeroFrom s.mem c.startAddr.toNat) := rfl

/-- Settles O53: a warm reset, then `zeroFrom` at a start address above the font. -/
theorem fullResetClearsProgram : Obligations.FullResetClearsProgram := by
  intro c s legal hwf
  obtain ⟨-, hlow, -, -⟩ := (Config.wf_iff c).1 legal
  refine ⟨_, hostOp_fullReset s legal, reg_warmReset c s, rfl, rfl, rfl, rfl, rfl, ?_, fun a ha => ?_,
    fun a _ ha => ?_, Memory.wf_zeroFrom _ _ hwf⟩
  · exact ((sameBut_warmReset c s).trans (State.sameBut_setMem _ _)).mono (by decide)
  · rw [fullReset_eq, State.mem_setMem, Memory.read_zeroFrom _ _ _ hlow, if_pos ha]
  · rw [fullReset_eq, State.mem_setMem, Memory.read_zeroFrom _ _ _ hlow, if_neg (Nat.not_lt.2 ha)]

/-! ### Loading -/

theorem load_eq (c : Config) (image : List Byte) (s : State) :
    s.load c image = s.setMem (Memory.writeBytes s.mem c.startAddr.toNat image) := rfl

/-- Settles O54: a load that fits is `writeBytes`; whether it fits is judged first, then whether
a tick has been issued. -/
theorem loadPlacesProgram : Obligations.LoadPlacesProgram := by
  intro c s image legal
  have hfits := Config.fits_iff c image
  refine ⟨fun hticked hle => ⟨s.load c image, ?_, fun k hk => ?_, fun a ha => ?_, ?_, fun hwf => ?_⟩,
    fun hgt => ?_, fun hticked hle => ?_⟩
  · rw [hostOp_load image s legal, if_pos (hfits.2 hle), hticked]; rfl
  · rw [load_eq, State.mem_setMem, Memory.read_writeBytes, if_pos (by omega), Nat.add_sub_cancel_left]
  · rw [load_eq, State.mem_setMem, Memory.read_writeBytes, if_neg ha]
  · exact s.sameBut_setMem _
  · exact Memory.wf_writeBytes image s.mem _ hwf hle
  · rw [hostOp_load image s legal, if_neg (mt hfits.1 (by omega))]
  · rw [hostOp_load image s legal, if_pos (hfits.2 hle), if_pos hticked]

/-- Settles O55: each of the four reasons contradicts one clause of `Config.wf`. -/
theorem illegalConfigurationIsRefused : Obligations.IllegalConfigurationIsRefused := by
  intro c op s h
  refine hostOp_of_illegal op s fun legal => ?_
  obtain ⟨heven, hlow, hhigh, hfont⟩ := (Config.wf_iff c).1 legal
  omega

end Sys2Proof.Machine
